-- ==== Sys2Proof/Word.lean ====
section
/-! DEFINITION. The machine's two sizes of data (spec 00_scope.md R6): the Word of 32 bits and the byte.
Bit 0 is the least significant bit of each. -/

namespace Sys2Proof

/-- A Word: 32 bits, the width of registers, addresses, instructions and the ALU (R5, R6). -/
abbrev Word := BitVec 32

/-- A byte of memory or a character of a host stream: 8 bits (R50, R34). -/
abbrev Byte := BitVec 8

end Sys2Proof
end

