-- ==== Sys2Proof/Syntax.lean ====
section
/-! DEFINITION. The instructions: one constructor per row of spec/opcode_table.json (30_encoding.md R112), with
the operands its format gives (R82 to R88). Bits the decoder does not consult (R105) are no operands.
Immediates are kept as the bits of the encoding; branch and jump offsets are whole byte offsets, whose bit 0 is 0 in
every well-formed instruction (R86, R88). -/

namespace Sys2Proof

/-- A register number: a 5-bit field selects one of 32 registers (R21, R81). -/
abbrev RegIdx := Fin 32

/-- The instruction set (R2), with the reported no-ops (R180, R181) and the reserved words of the table
(R104, R146). -/
inductive Instr where
  -- Register-register, R format (40_op_register.md)
  /-- ADD (R121) -/
  | add (rd rs1 rs2 : RegIdx)
  /-- SUB (R122) -/
  | sub (rd rs1 rs2 : RegIdx)
  /-- SLL (R123) -/
  | sll (rd rs1 rs2 : RegIdx)
  /-- SLT (R124) -/
  | slt (rd rs1 rs2 : RegIdx)
  /-- SLTU (R125) -/
  | sltu (rd rs1 rs2 : RegIdx)
  /-- XOR (R126) -/
  | xor (rd rs1 rs2 : RegIdx)
  /-- SRL (R127) -/
  | srl (rd rs1 rs2 : RegIdx)
  /-- SRA (R128) -/
  | sra (rd rs1 rs2 : RegIdx)
  /-- OR (R129) -/
  | or (rd rs1 rs2 : RegIdx)
  /-- AND (R130) -/
  | and (rd rs1 rs2 : RegIdx)
  -- Multiply, divide, remainder, R format (41_op_muldiv.md)
  /-- MUL (R141) -/
  | mul (rd rs1 rs2 : RegIdx)
  /-- DIV (R142) -/
  | div (rd rs1 rs2 : RegIdx)
  /-- DIVU (R143) -/
  | divu (rd rs1 rs2 : RegIdx)
  /-- REM (R144) -/
  | rem (rd rs1 rs2 : RegIdx)
  /-- REMU (R145) -/
  | remu (rd rs1 rs2 : RegIdx)
  -- Register-immediate, I format and its shift variant (42_op_immediate.md)
  /-- ADDI (R151) -/
  | addi (rd rs1 : RegIdx) (imm : BitVec 12)
  /-- SLTI (R152) -/
  | slti (rd rs1 : RegIdx) (imm : BitVec 12)
  /-- SLTIU (R153) -/
  | sltiu (rd rs1 : RegIdx) (imm : BitVec 12)
  /-- XORI (R154) -/
  | xori (rd rs1 : RegIdx) (imm : BitVec 12)
  /-- ORI (R155) -/
  | ori (rd rs1 : RegIdx) (imm : BitVec 12)
  /-- ANDI (R156) -/
  | andi (rd rs1 : RegIdx) (imm : BitVec 12)
  /-- SLLI (R157) -/
  | slli (rd rs1 : RegIdx) (shamt : BitVec 5)
  /-- SRLI (R158) -/
  | srli (rd rs1 : RegIdx) (shamt : BitVec 5)
  /-- SRAI (R159) -/
  | srai (rd rs1 : RegIdx) (shamt : BitVec 5)
  -- Loads, I format (43_load_store.md)
  /-- LB (R172) -/
  | lb (rd rs1 : RegIdx) (imm : BitVec 12)
  /-- LH (R173) -/
  | lh (rd rs1 : RegIdx) (imm : BitVec 12)
  /-- LW (R174) -/
  | lw (rd rs1 : RegIdx) (imm : BitVec 12)
  /-- LBU (R175) -/
  | lbu (rd rs1 : RegIdx) (imm : BitVec 12)
  /-- LHU (R176) -/
  | lhu (rd rs1 : RegIdx) (imm : BitVec 12)
  -- Stores, S format (43_load_store.md)
  /-- SB (R177) -/
  | sb (rs1 rs2 : RegIdx) (imm : BitVec 12)
  /-- SH (R178) -/
  | sh (rs1 rs2 : RegIdx) (imm : BitVec 12)
  /-- SW (R179) -/
  | sw (rs1 rs2 : RegIdx) (imm : BitVec 12)
  -- Branches, B format (44_branch.md)
  /-- BEQ (R191) -/
  | beq (rs1 rs2 : RegIdx) (off : BitVec 13)
  /-- BNE (R192) -/
  | bne (rs1 rs2 : RegIdx) (off : BitVec 13)
  /-- BLT (R193) -/
  | blt (rs1 rs2 : RegIdx) (off : BitVec 13)
  /-- BGE (R194) -/
  | bge (rs1 rs2 : RegIdx) (off : BitVec 13)
  /-- BLTU (R195) -/
  | bltu (rs1 rs2 : RegIdx) (off : BitVec 13)
  /-- BGEU (R196) -/
  | bgeu (rs1 rs2 : RegIdx) (off : BitVec 13)
  -- Upper immediates, U format (45_upper_immediate.md)
  /-- LUI (R201) -/
  | lui (rd : RegIdx) (imm : BitVec 20)
  /-- AUIPC (R202) -/
  | auipc (rd : RegIdx) (imm : BitVec 20)
  -- Jumps, J and I formats (46_jump.md)
  /-- JAL (R211) -/
  | jal (rd : RegIdx) (off : BitVec 21)
  /-- JALR (R212) -/
  | jalr (rd rs1 : RegIdx) (imm : BitVec 12)
  -- System, I format (47_system.md)
  /-- ECALL (R221) -/
  | ecall
  /-- EBREAK (R227) -/
  | ebreak
  /-- SYSTEM.NOP (R228) -/
  | systemNop (imm : BitVec 12)
  -- Unrecognised widths, reported no-ops (43_load_store.md R180, R181)
  /-- LOAD.WIDTH3 (R180) -/
  | loadWidth3 (rd rs1 : RegIdx) (imm : BitVec 12)
  /-- LOAD.WIDTH6 (R180) -/
  | loadWidth6 (rd rs1 : RegIdx) (imm : BitVec 12)
  /-- LOAD.WIDTH7 (R180) -/
  | loadWidth7 (rd rs1 : RegIdx) (imm : BitVec 12)
  /-- STORE.WIDTH3 (R181) -/
  | storeWidth3 (rs1 rs2 : RegIdx) (imm : BitVec 12)
  /-- STORE.WIDTH4 (R181) -/
  | storeWidth4 (rs1 rs2 : RegIdx) (imm : BitVec 12)
  /-- STORE.WIDTH5 (R181) -/
  | storeWidth5 (rs1 rs2 : RegIdx) (imm : BitVec 12)
  /-- STORE.WIDTH6 (R181) -/
  | storeWidth6 (rs1 rs2 : RegIdx) (imm : BitVec 12)
  /-- STORE.WIDTH7 (R181) -/
  | storeWidth7 (rs1 rs2 : RegIdx) (imm : BitVec 12)
  -- Reserved words that have a row (30_encoding.md R104, 41_op_muldiv.md R146)
  /-- RESERVED.MULH (R146) -/
  | reservedMulh (rd rs1 rs2 : RegIdx)
  /-- RESERVED.MULHSU (R146) -/
  | reservedMulhsu (rd rs1 rs2 : RegIdx)
  /-- RESERVED.MULHU (R146) -/
  | reservedMulhu (rd rs1 rs2 : RegIdx)
  /-- RESERVED.BRANCH2 (R104) -/
  | reservedBranch2 (rs1 rs2 : RegIdx) (off : BitVec 13)
  /-- RESERVED.BRANCH3 (R104) -/
  | reservedBranch3 (rs1 rs2 : RegIdx) (off : BitVec 13)
  deriving DecidableEq, Repr

end Sys2Proof
end

