-- ==== Sys2Proof/WellFormed.lean ====
section
/-! DEFINITION. Which terms of `Instr` an encoding exists for. Register numbers, shift amounts and the other
immediates fit their fields by type; three things are left to check. -/

namespace Sys2Proof

/-- A B-format offset is even: "13-bit signed byte offset, bit 0 fixed 0" (R86, R92). -/
def evenBranchOffset (off : BitVec 13) : Bool := !off.getLsbD 0

/-- A J-format offset is even: "21-bit signed byte offset, bit 0 fixed 0" (R88, R94). -/
def evenJumpOffset (off : BitVec 21) : Bool := !off.getLsbD 0

/-- A SYSTEM no-op's 12-bit immediate is neither 0 (ECALL) nor 1 (EBREAK) (R102). -/
def systemNopImmediate (imm : BitVec 12) : Bool := imm != 0#12 && imm != 1#12

/-- The well-formed instructions: those some word encodes. -/
def Instr.wf : Instr → Bool
  | .add _ _ _ => true
  | .sub _ _ _ => true
  | .sll _ _ _ => true
  | .slt _ _ _ => true
  | .sltu _ _ _ => true
  | .xor _ _ _ => true
  | .srl _ _ _ => true
  | .sra _ _ _ => true
  | .or _ _ _ => true
  | .and _ _ _ => true
  | .mul _ _ _ => true
  | .div _ _ _ => true
  | .divu _ _ _ => true
  | .rem _ _ _ => true
  | .remu _ _ _ => true
  | .addi _ _ _ => true
  | .slti _ _ _ => true
  | .sltiu _ _ _ => true
  | .xori _ _ _ => true
  | .ori _ _ _ => true
  | .andi _ _ _ => true
  | .slli _ _ _ => true
  | .srli _ _ _ => true
  | .srai _ _ _ => true
  | .lb _ _ _ => true
  | .lh _ _ _ => true
  | .lw _ _ _ => true
  | .lbu _ _ _ => true
  | .lhu _ _ _ => true
  | .sb _ _ _ => true
  | .sh _ _ _ => true
  | .sw _ _ _ => true
  | .beq _ _ off => evenBranchOffset off
  | .bne _ _ off => evenBranchOffset off
  | .blt _ _ off => evenBranchOffset off
  | .bge _ _ off => evenBranchOffset off
  | .bltu _ _ off => evenBranchOffset off
  | .bgeu _ _ off => evenBranchOffset off
  | .lui _ _ => true
  | .auipc _ _ => true
  | .jal _ off => evenJumpOffset off
  | .jalr _ _ _ => true
  | .ecall => true
  | .ebreak => true
  | .systemNop imm => systemNopImmediate imm
  | .loadWidth3 _ _ _ => true
  | .loadWidth6 _ _ _ => true
  | .loadWidth7 _ _ _ => true
  | .storeWidth3 _ _ _ => true
  | .storeWidth4 _ _ _ => true
  | .storeWidth5 _ _ _ => true
  | .storeWidth6 _ _ _ => true
  | .storeWidth7 _ _ _ => true
  | .reservedMulh _ _ _ => true
  | .reservedMulhsu _ _ _ => true
  | .reservedMulhu _ _ _ => true
  | .reservedBranch2 _ _ off => evenBranchOffset off
  | .reservedBranch3 _ _ off => evenBranchOffset off

end Sys2Proof
end

