-- ==== Sys2Proof/Decode.lean ====
section
/-! DEFINITION. The decoder of 30_encoding.md, total on every word and every list of bytes, and the encoder, its
converse on well-formed instructions. The decoder reads each field once; the machine never sees raw bits. -/

namespace Sys2Proof

/-! ### Fields of an instruction word (R81) -/

/-- `opcode = w[6:0]`, the major opcode. -/
def opcodeOf (w : Word) : BitVec 7 := w.extractLsb' 0 7

/-- `funct3 = w[14:12]`. -/
def funct3Of (w : Word) : BitVec 3 := w.extractLsb' 12 3

/-- `funct7 = w[31:25]`. -/
def funct7Of (w : Word) : BitVec 7 := w.extractLsb' 25 7

/-- The register a 5-bit field selects, by its number (R21). -/
def regOfField (f : BitVec 5) : RegIdx := ⟨f.toNat, f.isLt⟩

/-- The 5-bit field that selects a register. -/
def fieldOfReg (r : RegIdx) : BitVec 5 := BitVec.ofNat 5 r.val

/-- `rd = w[11:7]`. -/
def rdOf (w : Word) : RegIdx := regOfField (w.extractLsb' 7 5)

/-- `rs1 = w[19:15]`. -/
def rs1Of (w : Word) : RegIdx := regOfField (w.extractLsb' 15 5)

/-- `rs2 = w[24:20]`. -/
def rs2Of (w : Word) : RegIdx := regOfField (w.extractLsb' 20 5)

/-- `shamt = w[24:20]` (R84, R90). -/
def shamtOf (w : Word) : BitVec 5 := w.extractLsb' 20 5

/-- The I format's 12 immediate bits, `w[31:20]` (R83, R89, R102). -/
def immIOf (w : Word) : BitVec 12 := w.extractLsb' 20 12

/-- The S format's 12 immediate bits, `w[31:25]` above `w[11:7]` (R85, R91). -/
def immSOf (w : Word) : BitVec 12 := w.extractLsb' 25 7 ++ w.extractLsb' 7 5

/-- The B format's 13-bit byte offset: `w[31]`, `w[7]`, `w[30:25]`, `w[11:8]`, one zero bit (R86, R92). -/
def offBOf (w : Word) : BitVec 13 :=
  w.extractLsb' 31 1 ++ w.extractLsb' 7 1 ++ w.extractLsb' 25 6 ++ w.extractLsb' 8 4 ++ 0#1

/-- The U format's 20 immediate bits, `w[31:12]` (R87, R93). -/
def immUOf (w : Word) : BitVec 20 := w.extractLsb' 12 20

/-- The J format's 21-bit byte offset: `w[31]`, `w[19:12]`, `w[20]`, `w[30:21]`, one zero bit (R88, R94). -/
def offJOf (w : Word) : BitVec 21 :=
  w.extractLsb' 31 1 ++ w.extractLsb' 12 8 ++ w.extractLsb' 20 1 ++ w.extractLsb' 21 10 ++ 0#1

/-! ### Classification (R96 to R105) -/

/-- Why a word, or a list of bytes, is no instruction. -/
inductive DecodeError where
  /-- Fewer than the four bytes of an instruction (R80). -/
  | tooFewBytes
  /-- The major opcode is none of the ten supported ones (R103). -/
  | unsupportedOpcode
  /-- Opcode 0x33 with funct7 none of 0x00, 0x01, 0x20 (R104 case a). -/
  | reservedFunct7
  /-- Opcode 0x33, funct7 0x20, funct3 neither 0 nor 5 (R104 case b). -/
  | reservedAlternate
  /-- Opcode 0x13, funct3 5, `w[31:25]` neither 0x00 nor 0x20 (R104 case d). -/
  | reservedShift
  deriving DecidableEq, Repr

/-- What the decoder answers: an instruction, or the reason there is none. -/
abbrev Decoded := Except DecodeError Instr

/-- Second level of opcode 0x33 (R97, R104 cases a, b, c). -/
def decodeRegister (w : Word) : Decoded :=
  let rd := rdOf w
  let rs1 := rs1Of w
  let rs2 := rs2Of w
  let f3 := funct3Of w
  if funct7Of w = 0x00#7 then
    if f3 = 0#3 then .ok (.add rd rs1 rs2)
    else if f3 = 1#3 then .ok (.sll rd rs1 rs2)
    else if f3 = 2#3 then .ok (.slt rd rs1 rs2)
    else if f3 = 3#3 then .ok (.sltu rd rs1 rs2)
    else if f3 = 4#3 then .ok (.xor rd rs1 rs2)
    else if f3 = 5#3 then .ok (.srl rd rs1 rs2)
    else if f3 = 6#3 then .ok (.or rd rs1 rs2)
    else .ok (.and rd rs1 rs2)
  else if funct7Of w = 0x01#7 then
    if f3 = 0#3 then .ok (.mul rd rs1 rs2)
    else if f3 = 1#3 then .ok (.reservedMulh rd rs1 rs2)
    else if f3 = 2#3 then .ok (.reservedMulhsu rd rs1 rs2)
    else if f3 = 3#3 then .ok (.reservedMulhu rd rs1 rs2)
    else if f3 = 4#3 then .ok (.div rd rs1 rs2)
    else if f3 = 5#3 then .ok (.divu rd rs1 rs2)
    else if f3 = 6#3 then .ok (.rem rd rs1 rs2)
    else .ok (.remu rd rs1 rs2)
  else if funct7Of w = 0x20#7 then
    if f3 = 0#3 then .ok (.sub rd rs1 rs2)
    else if f3 = 5#3 then .ok (.sra rd rs1 rs2)
    else .error .reservedAlternate
  else .error .reservedFunct7

/-- Second level of opcode 0x13 (R98, R104 case d); funct7 is consulted for the right shifts only. -/
def decodeImmediate (w : Word) : Decoded :=
  let rd := rdOf w
  let rs1 := rs1Of w
  let f3 := funct3Of w
  if f3 = 0#3 then .ok (.addi rd rs1 (immIOf w))
  else if f3 = 1#3 then .ok (.slli rd rs1 (shamtOf w))
  else if f3 = 2#3 then .ok (.slti rd rs1 (immIOf w))
  else if f3 = 3#3 then .ok (.sltiu rd rs1 (immIOf w))
  else if f3 = 4#3 then .ok (.xori rd rs1 (immIOf w))
  else if f3 = 5#3 then
    if funct7Of w = 0x00#7 then .ok (.srli rd rs1 (shamtOf w))
    else if funct7Of w = 0x20#7 then .ok (.srai rd rs1 (shamtOf w))
    else .error .reservedShift
  else if f3 = 6#3 then .ok (.ori rd rs1 (immIOf w))
  else .ok (.andi rd rs1 (immIOf w))

/-- Second level of opcode 0x03 (R99): funct3 is the width and the extension. -/
def decodeLoad (w : Word) : Decoded :=
  let rd := rdOf w
  let rs1 := rs1Of w
  let imm := immIOf w
  let f3 := funct3Of w
  if f3 = 0#3 then .ok (.lb rd rs1 imm)
  else if f3 = 1#3 then .ok (.lh rd rs1 imm)
  else if f3 = 2#3 then .ok (.lw rd rs1 imm)
  else if f3 = 3#3 then .ok (.loadWidth3 rd rs1 imm)
  else if f3 = 4#3 then .ok (.lbu rd rs1 imm)
  else if f3 = 5#3 then .ok (.lhu rd rs1 imm)
  else if f3 = 6#3 then .ok (.loadWidth6 rd rs1 imm)
  else .ok (.loadWidth7 rd rs1 imm)

/-- Second level of opcode 0x23 (R99): funct3 is the width. -/
def decodeStore (w : Word) : Decoded :=
  let rs1 := rs1Of w
  let rs2 := rs2Of w
  let imm := immSOf w
  let f3 := funct3Of w
  if f3 = 0#3 then .ok (.sb rs1 rs2 imm)
  else if f3 = 1#3 then .ok (.sh rs1 rs2 imm)
  else if f3 = 2#3 then .ok (.sw rs1 rs2 imm)
  else if f3 = 3#3 then .ok (.storeWidth3 rs1 rs2 imm)
  else if f3 = 4#3 then .ok (.storeWidth4 rs1 rs2 imm)
  else if f3 = 5#3 then .ok (.storeWidth5 rs1 rs2 imm)
  else if f3 = 6#3 then .ok (.storeWidth6 rs1 rs2 imm)
  else .ok (.storeWidth7 rs1 rs2 imm)

/-- Second level of opcode 0x63 (R100, R104 case e): the branch condition table. -/
def decodeBranch (w : Word) : Decoded :=
  let rs1 := rs1Of w
  let rs2 := rs2Of w
  let off := offBOf w
  let f3 := funct3Of w
  if f3 = 0#3 then .ok (.beq rs1 rs2 off)
  else if f3 = 1#3 then .ok (.bne rs1 rs2 off)
  else if f3 = 2#3 then .ok (.reservedBranch2 rs1 rs2 off)
  else if f3 = 3#3 then .ok (.reservedBranch3 rs1 rs2 off)
  else if f3 = 4#3 then .ok (.blt rs1 rs2 off)
  else if f3 = 5#3 then .ok (.bge rs1 rs2 off)
  else if f3 = 6#3 then .ok (.bltu rs1 rs2 off)
  else .ok (.bgeu rs1 rs2 off)

/-- Second level of opcode 0x73 (R102): the raw 12-bit immediate and nothing else. -/
def decodeSystem (w : Word) : Decoded :=
  if immIOf w = 0#12 then .ok .ecall
  else if immIOf w = 1#12 then .ok .ebreak
  else .ok (.systemNop (immIOf w))

/-- First level: the major opcode (R96, R101, R103). -/
def decodeWord (w : Word) : Decoded :=
  if opcodeOf w = 0x33#7 then decodeRegister w
  else if opcodeOf w = 0x13#7 then decodeImmediate w
  else if opcodeOf w = 0x03#7 then decodeLoad w
  else if opcodeOf w = 0x23#7 then decodeStore w
  else if opcodeOf w = 0x63#7 then decodeBranch w
  else if opcodeOf w = 0x37#7 then .ok (.lui (rdOf w) (immUOf w))
  else if opcodeOf w = 0x17#7 then .ok (.auipc (rdOf w) (immUOf w))
  else if opcodeOf w = 0x6F#7 then .ok (.jal (rdOf w) (offJOf w))
  else if opcodeOf w = 0x67#7 then .ok (.jalr (rdOf w) (rs1Of w) (immIOf w))
  else if opcodeOf w = 0x73#7 then decodeSystem w
  else .error .unsupportedOpcode

/-- The word of four bytes, the first at the lowest address: little-endian (R53, R54). -/
def wordOfBytes (b0 b1 b2 b3 : Byte) : Word := b3 ++ b2 ++ b1 ++ b0

/-- Byte `k` of a word, the one its address `a + k` holds (R53, R54). -/
def byteOfWord (w : Word) (k : Nat) : Byte := w.extractLsb' (8 * k) 8

/-- The instruction at the head of a list of bytes, the first at the lowest address; every instruction is one word of
four bytes (R80), so later bytes are not looked at. -/
def decodeBytes : List Byte → Decoded
  | b0 :: b1 :: b2 :: b3 :: _ => decodeWord (wordOfBytes b0 b1 b2 b3)
  | _ => .error .tooFewBytes

/-- The word whose bits are `w`, the bits from `nbits` up being 0. -/
def tableWord (nbits w : Nat) : Word := BitVec.ofNat 32 (w % 2 ^ nbits)

/-- The instruction the decoder reads from the bits `w` of an opcode-table row, laid out in memory order. -/
def decodeTableWord (nbits w : Nat) : Option Instr :=
  let v := tableWord nbits w
  (decodeBytes [byteOfWord v 0, byteOfWord v 1, byteOfWord v 2, byteOfWord v 3]).toOption

/-! ### Encoding (R82 to R88): the formats, and one word per instruction -/

/-- R format (R82). -/
def encodeR (f7 : BitVec 7) (rs2 rs1 : RegIdx) (f3 : BitVec 3) (rd : RegIdx) (op : BitVec 7) : Word :=
  f7 ++ fieldOfReg rs2 ++ fieldOfReg rs1 ++ f3 ++ fieldOfReg rd ++ op

/-- I format (R83). -/
def encodeI (imm : BitVec 12) (rs1 : RegIdx) (f3 : BitVec 3) (rd : RegIdx) (op : BitVec 7) : Word :=
  imm ++ fieldOfReg rs1 ++ f3 ++ fieldOfReg rd ++ op

/-- I format, shift variant (R84). -/
def encodeShift (f7 : BitVec 7) (shamt : BitVec 5) (rs1 : RegIdx) (f3 : BitVec 3) (rd : RegIdx) : Word :=
  f7 ++ shamt ++ fieldOfReg rs1 ++ f3 ++ fieldOfReg rd ++ 0x13#7

/-- S format (R85). -/
def encodeS (imm : BitVec 12) (rs2 rs1 : RegIdx) (f3 : BitVec 3) : Word :=
  imm.extractLsb' 5 7 ++ fieldOfReg rs2 ++ fieldOfReg rs1 ++ f3 ++ imm.extractLsb' 0 5 ++ 0x23#7

/-- B format (R86). -/
def encodeB (off : BitVec 13) (rs2 rs1 : RegIdx) (f3 : BitVec 3) : Word :=
  off.extractLsb' 12 1 ++ off.extractLsb' 5 6 ++ fieldOfReg rs2 ++ fieldOfReg rs1 ++ f3 ++ off.extractLsb' 1 4 ++
    off.extractLsb' 11 1 ++ 0x63#7

/-- U format (R87). -/
def encodeU (imm : BitVec 20) (rd : RegIdx) (op : BitVec 7) : Word := imm ++ fieldOfReg rd ++ op

/-- J format (R88). -/
def encodeJ (off : BitVec 21) (rd : RegIdx) : Word :=
  off.extractLsb' 20 1 ++ off.extractLsb' 1 10 ++ off.extractLsb' 11 1 ++ off.extractLsb' 12 8 ++ fieldOfReg rd ++
    0x6F#7

/-- The word of an instruction; bits the decoder does not consult (R105) are 0, the canonical form. -/
def encode : Instr → Word
  | .add rd rs1 rs2 => encodeR 0x00#7 rs2 rs1 0#3 rd 0x33#7
  | .sub rd rs1 rs2 => encodeR 0x20#7 rs2 rs1 0#3 rd 0x33#7
  | .sll rd rs1 rs2 => encodeR 0x00#7 rs2 rs1 1#3 rd 0x33#7
  | .slt rd rs1 rs2 => encodeR 0x00#7 rs2 rs1 2#3 rd 0x33#7
  | .sltu rd rs1 rs2 => encodeR 0x00#7 rs2 rs1 3#3 rd 0x33#7
  | .xor rd rs1 rs2 => encodeR 0x00#7 rs2 rs1 4#3 rd 0x33#7
  | .srl rd rs1 rs2 => encodeR 0x00#7 rs2 rs1 5#3 rd 0x33#7
  | .sra rd rs1 rs2 => encodeR 0x20#7 rs2 rs1 5#3 rd 0x33#7
  | .or rd rs1 rs2 => encodeR 0x00#7 rs2 rs1 6#3 rd 0x33#7
  | .and rd rs1 rs2 => encodeR 0x00#7 rs2 rs1 7#3 rd 0x33#7
  | .mul rd rs1 rs2 => encodeR 0x01#7 rs2 rs1 0#3 rd 0x33#7
  | .div rd rs1 rs2 => encodeR 0x01#7 rs2 rs1 4#3 rd 0x33#7
  | .divu rd rs1 rs2 => encodeR 0x01#7 rs2 rs1 5#3 rd 0x33#7
  | .rem rd rs1 rs2 => encodeR 0x01#7 rs2 rs1 6#3 rd 0x33#7
  | .remu rd rs1 rs2 => encodeR 0x01#7 rs2 rs1 7#3 rd 0x33#7
  | .addi rd rs1 imm => encodeI imm rs1 0#3 rd 0x13#7
  | .slti rd rs1 imm => encodeI imm rs1 2#3 rd 0x13#7
  | .sltiu rd rs1 imm => encodeI imm rs1 3#3 rd 0x13#7
  | .xori rd rs1 imm => encodeI imm rs1 4#3 rd 0x13#7
  | .ori rd rs1 imm => encodeI imm rs1 6#3 rd 0x13#7
  | .andi rd rs1 imm => encodeI imm rs1 7#3 rd 0x13#7
  | .slli rd rs1 shamt => encodeShift 0x00#7 shamt rs1 1#3 rd
  | .srli rd rs1 shamt => encodeShift 0x00#7 shamt rs1 5#3 rd
  | .srai rd rs1 shamt => encodeShift 0x20#7 shamt rs1 5#3 rd
  | .lb rd rs1 imm => encodeI imm rs1 0#3 rd 0x03#7
  | .lh rd rs1 imm => encodeI imm rs1 1#3 rd 0x03#7
  | .lw rd rs1 imm => encodeI imm rs1 2#3 rd 0x03#7
  | .lbu rd rs1 imm => encodeI imm rs1 4#3 rd 0x03#7
  | .lhu rd rs1 imm => encodeI imm rs1 5#3 rd 0x03#7
  | .sb rs1 rs2 imm => encodeS imm rs2 rs1 0#3
  | .sh rs1 rs2 imm => encodeS imm rs2 rs1 1#3
  | .sw rs1 rs2 imm => encodeS imm rs2 rs1 2#3
  | .beq rs1 rs2 off => encodeB off rs2 rs1 0#3
  | .bne rs1 rs2 off => encodeB off rs2 rs1 1#3
  | .blt rs1 rs2 off => encodeB off rs2 rs1 4#3
  | .bge rs1 rs2 off => encodeB off rs2 rs1 5#3
  | .bltu rs1 rs2 off => encodeB off rs2 rs1 6#3
  | .bgeu rs1 rs2 off => encodeB off rs2 rs1 7#3
  | .lui rd imm => encodeU imm rd 0x37#7
  | .auipc rd imm => encodeU imm rd 0x17#7
  | .jal rd off => encodeJ off rd
  | .jalr rd rs1 imm => encodeI imm rs1 0#3 rd 0x67#7
  | .ecall => encodeI 0#12 0 0#3 0 0x73#7
  | .ebreak => encodeI 1#12 0 0#3 0 0x73#7
  | .systemNop imm => encodeI imm 0 0#3 0 0x73#7
  | .loadWidth3 rd rs1 imm => encodeI imm rs1 3#3 rd 0x03#7
  | .loadWidth6 rd rs1 imm => encodeI imm rs1 6#3 rd 0x03#7
  | .loadWidth7 rd rs1 imm => encodeI imm rs1 7#3 rd 0x03#7
  | .storeWidth3 rs1 rs2 imm => encodeS imm rs2 rs1 3#3
  | .storeWidth4 rs1 rs2 imm => encodeS imm rs2 rs1 4#3
  | .storeWidth5 rs1 rs2 imm => encodeS imm rs2 rs1 5#3
  | .storeWidth6 rs1 rs2 imm => encodeS imm rs2 rs1 6#3
  | .storeWidth7 rs1 rs2 imm => encodeS imm rs2 rs1 7#3
  | .reservedMulh rd rs1 rs2 => encodeR 0x01#7 rs2 rs1 1#3 rd 0x33#7
  | .reservedMulhsu rd rs1 rs2 => encodeR 0x01#7 rs2 rs1 2#3 rd 0x33#7
  | .reservedMulhu rd rs1 rs2 => encodeR 0x01#7 rs2 rs1 3#3 rd 0x33#7
  | .reservedBranch2 rs1 rs2 off => encodeB off rs2 rs1 2#3
  | .reservedBranch3 rs1 rs2 off => encodeB off rs2 rs1 3#3

/-! ### The opcode table (R112) -/

/-- One row of spec/opcode_table.json: a word `w` belongs to it when `w &&& mask = pattern`. -/
structure OpcodeRow where
  mnemonic : String
  pattern : Word
  mask : Word
  deriving DecidableEq, Repr

/-- The table's row for an instruction. -/
def rowOf : Instr → OpcodeRow
  | .add _ _ _ => ⟨"ADD", 0x00000033, 0xFE00707F⟩
  | .sub _ _ _ => ⟨"SUB", 0x40000033, 0xFE00707F⟩
  | .sll _ _ _ => ⟨"SLL", 0x00001033, 0xFE00707F⟩
  | .slt _ _ _ => ⟨"SLT", 0x00002033, 0xFE00707F⟩
  | .sltu _ _ _ => ⟨"SLTU", 0x00003033, 0xFE00707F⟩
  | .xor _ _ _ => ⟨"XOR", 0x00004033, 0xFE00707F⟩
  | .srl _ _ _ => ⟨"SRL", 0x00005033, 0xFE00707F⟩
  | .sra _ _ _ => ⟨"SRA", 0x40005033, 0xFE00707F⟩
  | .or _ _ _ => ⟨"OR", 0x00006033, 0xFE00707F⟩
  | .and _ _ _ => ⟨"AND", 0x00007033, 0xFE00707F⟩
  | .mul _ _ _ => ⟨"MUL", 0x02000033, 0xFE00707F⟩
  | .div _ _ _ => ⟨"DIV", 0x02004033, 0xFE00707F⟩
  | .divu _ _ _ => ⟨"DIVU", 0x02005033, 0xFE00707F⟩
  | .rem _ _ _ => ⟨"REM", 0x02006033, 0xFE00707F⟩
  | .remu _ _ _ => ⟨"REMU", 0x02007033, 0xFE00707F⟩
  | .addi _ _ _ => ⟨"ADDI", 0x00000013, 0x0000707F⟩
  | .slti _ _ _ => ⟨"SLTI", 0x00002013, 0x0000707F⟩
  | .sltiu _ _ _ => ⟨"SLTIU", 0x00003013, 0x0000707F⟩
  | .xori _ _ _ => ⟨"XORI", 0x00004013, 0x0000707F⟩
  | .ori _ _ _ => ⟨"ORI", 0x00006013, 0x0000707F⟩
  | .andi _ _ _ => ⟨"ANDI", 0x00007013, 0x0000707F⟩
  | .slli _ _ _ => ⟨"SLLI", 0x00001013, 0x0000707F⟩
  | .srli _ _ _ => ⟨"SRLI", 0x00005013, 0xFE00707F⟩
  | .srai _ _ _ => ⟨"SRAI", 0x40005013, 0xFE00707F⟩
  | .lb _ _ _ => ⟨"LB", 0x00000003, 0x0000707F⟩
  | .lh _ _ _ => ⟨"LH", 0x00001003, 0x0000707F⟩
  | .lw _ _ _ => ⟨"LW", 0x00002003, 0x0000707F⟩
  | .lbu _ _ _ => ⟨"LBU", 0x00004003, 0x0000707F⟩
  | .lhu _ _ _ => ⟨"LHU", 0x00005003, 0x0000707F⟩
  | .sb _ _ _ => ⟨"SB", 0x00000023, 0x0000707F⟩
  | .sh _ _ _ => ⟨"SH", 0x00001023, 0x0000707F⟩
  | .sw _ _ _ => ⟨"SW", 0x00002023, 0x0000707F⟩
  | .beq _ _ _ => ⟨"BEQ", 0x00000063, 0x0000707F⟩
  | .bne _ _ _ => ⟨"BNE", 0x00001063, 0x0000707F⟩
  | .blt _ _ _ => ⟨"BLT", 0x00004063, 0x0000707F⟩
  | .bge _ _ _ => ⟨"BGE", 0x00005063, 0x0000707F⟩
  | .bltu _ _ _ => ⟨"BLTU", 0x00006063, 0x0000707F⟩
  | .bgeu _ _ _ => ⟨"BGEU", 0x00007063, 0x0000707F⟩
  | .lui _ _ => ⟨"LUI", 0x00000037, 0x0000007F⟩
  | .auipc _ _ => ⟨"AUIPC", 0x00000017, 0x0000007F⟩
  | .jal _ _ => ⟨"JAL", 0x0000006F, 0x0000007F⟩
  | .jalr _ _ _ => ⟨"JALR", 0x00000067, 0x0000007F⟩
  | .ecall => ⟨"ECALL", 0x00000073, 0xFFF0007F⟩
  | .ebreak => ⟨"EBREAK", 0x00100073, 0xFFF0007F⟩
  | .systemNop _ => ⟨"SYSTEM.NOP", 0x00000073, 0x0000007F⟩
  | .loadWidth3 _ _ _ => ⟨"LOAD.WIDTH3", 0x00003003, 0x0000707F⟩
  | .loadWidth6 _ _ _ => ⟨"LOAD.WIDTH6", 0x00006003, 0x0000707F⟩
  | .loadWidth7 _ _ _ => ⟨"LOAD.WIDTH7", 0x00007003, 0x0000707F⟩
  | .storeWidth3 _ _ _ => ⟨"STORE.WIDTH3", 0x00003023, 0x0000707F⟩
  | .storeWidth4 _ _ _ => ⟨"STORE.WIDTH4", 0x00004023, 0x0000707F⟩
  | .storeWidth5 _ _ _ => ⟨"STORE.WIDTH5", 0x00005023, 0x0000707F⟩
  | .storeWidth6 _ _ _ => ⟨"STORE.WIDTH6", 0x00006023, 0x0000707F⟩
  | .storeWidth7 _ _ _ => ⟨"STORE.WIDTH7", 0x00007023, 0x0000707F⟩
  | .reservedMulh _ _ _ => ⟨"RESERVED.MULH", 0x02001033, 0xFE00707F⟩
  | .reservedMulhsu _ _ _ => ⟨"RESERVED.MULHSU", 0x02002033, 0xFE00707F⟩
  | .reservedMulhu _ _ _ => ⟨"RESERVED.MULHU", 0x02003033, 0xFE00707F⟩
  | .reservedBranch2 _ _ _ => ⟨"RESERVED.BRANCH2", 0x00002063, 0x0000707F⟩
  | .reservedBranch3 _ _ _ => ⟨"RESERVED.BRANCH3", 0x00003063, 0x0000707F⟩

/-- The bits of a word the decoder consults for an instruction (R105): all but `w[31:25]` for SLLI, `w[14:12]` for
JALR, `w[19:7]` for the system words. -/
def consultedBits : Instr → Word
  | .add _ _ _ => 0xFFFFFFFF
  | .sub _ _ _ => 0xFFFFFFFF
  | .sll _ _ _ => 0xFFFFFFFF
  | .slt _ _ _ => 0xFFFFFFFF
  | .sltu _ _ _ => 0xFFFFFFFF
  | .xor _ _ _ => 0xFFFFFFFF
  | .srl _ _ _ => 0xFFFFFFFF
  | .sra _ _ _ => 0xFFFFFFFF
  | .or _ _ _ => 0xFFFFFFFF
  | .and _ _ _ => 0xFFFFFFFF
  | .mul _ _ _ => 0xFFFFFFFF
  | .div _ _ _ => 0xFFFFFFFF
  | .divu _ _ _ => 0xFFFFFFFF
  | .rem _ _ _ => 0xFFFFFFFF
  | .remu _ _ _ => 0xFFFFFFFF
  | .addi _ _ _ => 0xFFFFFFFF
  | .slti _ _ _ => 0xFFFFFFFF
  | .sltiu _ _ _ => 0xFFFFFFFF
  | .xori _ _ _ => 0xFFFFFFFF
  | .ori _ _ _ => 0xFFFFFFFF
  | .andi _ _ _ => 0xFFFFFFFF
  | .slli _ _ _ => 0x01FFFFFF
  | .srli _ _ _ => 0xFFFFFFFF
  | .srai _ _ _ => 0xFFFFFFFF
  | .lb _ _ _ => 0xFFFFFFFF
  | .lh _ _ _ => 0xFFFFFFFF
  | .lw _ _ _ => 0xFFFFFFFF
  | .lbu _ _ _ => 0xFFFFFFFF
  | .lhu _ _ _ => 0xFFFFFFFF
  | .sb _ _ _ => 0xFFFFFFFF
  | .sh _ _ _ => 0xFFFFFFFF
  | .sw _ _ _ => 0xFFFFFFFF
  | .beq _ _ _ => 0xFFFFFFFF
  | .bne _ _ _ => 0xFFFFFFFF
  | .blt _ _ _ => 0xFFFFFFFF
  | .bge _ _ _ => 0xFFFFFFFF
  | .bltu _ _ _ => 0xFFFFFFFF
  | .bgeu _ _ _ => 0xFFFFFFFF
  | .lui _ _ => 0xFFFFFFFF
  | .auipc _ _ => 0xFFFFFFFF
  | .jal _ _ => 0xFFFFFFFF
  | .jalr _ _ _ => 0xFFFF8FFF
  | .ecall => 0xFFF0007F
  | .ebreak => 0xFFF0007F
  | .systemNop _ => 0xFFF0007F
  | .loadWidth3 _ _ _ => 0xFFFFFFFF
  | .loadWidth6 _ _ _ => 0xFFFFFFFF
  | .loadWidth7 _ _ _ => 0xFFFFFFFF
  | .storeWidth3 _ _ _ => 0xFFFFFFFF
  | .storeWidth4 _ _ _ => 0xFFFFFFFF
  | .storeWidth5 _ _ _ => 0xFFFFFFFF
  | .storeWidth6 _ _ _ => 0xFFFFFFFF
  | .storeWidth7 _ _ _ => 0xFFFFFFFF
  | .reservedMulh _ _ _ => 0xFFFFFFFF
  | .reservedMulhsu _ _ _ => 0xFFFFFFFF
  | .reservedMulhu _ _ _ => 0xFFFFFFFF
  | .reservedBranch2 _ _ _ => 0xFFFFFFFF
  | .reservedBranch3 _ _ _ => 0xFFFFFFFF

end Sys2Proof
end

