-- ==== Sys2Proof/Config.lean ====
section
/-! DEFINITION. The launch parameters of spec 00_scope.md R5 that stay fixed during a run.
The spec leaves each of them OPEN ("a model takes each `OPEN` one as an argument"), so they are a record that
State carries unchanged: a statement about every state holds for every value of them. -/

namespace Sys2Proof

/-- The OPEN parameters of R5, and the two results that 93_implementation_defined.md U3 asks a model to keep as
configuration. -/
structure Config where
  /-- `CAP`, the memory capacity in bytes (R5, D1). -/
  cap : Nat
  /-- `SYS_EXIT`, the selector of the exit service (R5, R222, D10). -/
  sysExit : Word
  /-- `SYS_PUTCHAR`, the selector of the write-character service (R5, R223, D10). -/
  sysPutchar : Word
  /-- `SYS_GETCHAR`, the selector of the read-character service (R5, R224, D10). -/
  sysGetchar : Word
  /-- `SYS_DEBUG`, the selector of the debug-print service (R5, R225, D10). -/
  sysDebug : Word
  /-- `GETCHAR_EOF`, what x10 receives when the input is exhausted (R5, R224, D11). -/
  getcharEof : Word
  /-- `STEP_LIMIT`, the host's ceiling on executed instructions, possibly absent (R5, R39, D13). -/
  stepLimit : Option Nat
  /-- The quotient DIV gives for -2^31 by -1: 0x80000000 by R142 and D9, a configuration value by U3. -/
  divOverflow : Word
  /-- The remainder REM gives for -2^31 by -1: 0 by R144 and D9, a configuration value by U3. -/
  remOverflow : Word
  deriving DecidableEq, Repr

/-- What R5 requires of the parameters: 4 ≤ CAP ≤ 2^32 and the four selectors pairwise distinct. -/
abbrev Config.WF (c : Config) : Prop :=
  (4 ≤ c.cap ∧ c.cap ≤ 2 ^ 32) ∧
  [c.sysExit, c.sysPutchar, c.sysGetchar, c.sysDebug].Pairwise (· ≠ ·)

/-- The overflow results are the ones decision D9 takes (R142: 0x80000000; R144: 0). -/
abbrev Config.DecidedOverflow (c : Config) : Prop :=
  c.divOverflow = 0x80000000#32 ∧ c.remOverflow = 0#32

/-- DESIGN CHOICE (notes/assumptions/6 to 10): the one configuration `State.reset` uses. CAP is that of the
spec's test vectors, the selectors are those of program P4 ("arbitrary values"), GETCHAR_EOF is the value D11
suggests, there is no step ceiling, and the overflow results are the decided ones. -/
def Config.default : Config where
  cap := 0x10000
  sysExit := 3
  sysPutchar := 1
  sysGetchar := 2
  sysDebug := 4
  getcharEof := 0xFFFFFFFF
  stepLimit := none
  divOverflow := 0x80000000
  remOverflow := 0

end Sys2Proof
end

