-- ==== Sys2Proof/Machine/State.lean ====
section
/-! DEFINITION. The whole state of the core and of its host streams (10_state.md R20, R33, R34, R39), why a run can
stop (60_exceptions.md R240 to R248), and reset (70_reset_and_hazards.md R270). Everything is plain data. -/

namespace Sys2Proof.Machine

/-- The memory's contents, as (address, byte) pairs; `Memory.wf` in Machine/Ops.lean is its canonical form and
`Memory.unlisted` what an address that is not listed reads as. Every possible IMAGE (R52) is such a list. -/
abbrev Memory := List Host.Cell

/-- Whether an access was a load or a store (R248). -/
inductive AccessKind where
  | load
  | store
  deriving DecidableEq, Repr

/-- `stop_cause` together with the `stop_info` it records, and `exit_status` (R33, R241 to R248, R250). -/
inductive StopCause where
  /-- R241: normal; records `exit_status`. -/
  | exit (exitStatus : Word)
  /-- R242: normal; records nothing. -/
  | breakpoint
  /-- R243: normal; records nothing. -/
  | stepLimit
  /-- R244: fatal; records the own address and the word. -/
  | unsupportedOpcode (pc w : Word)
  /-- R245: fatal; records the own address and the word. -/
  | reservedEncoding (pc w : Word)
  /-- R246: fatal; records the pc that could not be fetched. -/
  | fetchBoundsFault (pc : Word)
  /-- R247: fatal; records the pc. -/
  | misalignedFetch (pc : Word)
  /-- R248: fatal; records the effective address, the width in bytes and the kind of access. -/
  | memoryBoundsFault (ea : Word) (width : Nat) (kind : AccessKind)
  deriving DecidableEq, Repr

/-- The run status (R33): the cause and its record exist exactly while the core is Stopped (notes/assumptions/4). -/
inductive RunStatus where
  | running
  | stopped (cause : StopCause)
  deriving DecidableEq, Repr

/-- One record of the diagnostic stream (R34): the two reports of R249 and the debug print of R225. -/
inductive DiagRecord where
  /-- `UnknownSyscall(pc, sel)` (R226, R249). -/
  | unknownSyscall (pc sel : Word)
  /-- `UnrecognizedWidth(pc, w)` (R180, R181, R249). -/
  | unrecognizedWidth (pc w : Word)
  /-- `HostDebug(w)` (R225). -/
  | debugPrint (value : Word)
  deriving DecidableEq, Repr

/-- The core's state, its launch parameters and its host streams. -/
structure State where
  /-- The launch parameters (R5); no step changes them. -/
  cfg : Config
  /-- The register file x0 to x31 (R21); slot 0 is never read or written (R22). -/
  regs : Vector Word 32
  /-- The program counter: the own address of the instruction executed next (R11, R25). -/
  pc : Word
  /-- `mem[0..CAP-1]` (R50). -/
  mem : Memory
  /-- The run status (R33). -/
  run : RunStatus
  /-- Completed instruction cycles since reset (R39). -/
  executed : Nat
  /-- The output stream, first character first (R34). -/
  output : List Byte
  /-- The characters of the input stream not read yet, the next one first (R34). -/
  input : List Byte
  /-- Whether the host has said that no more input will come (R34, R224). -/
  inputEnded : Bool
  /-- The diagnostic stream, first record first (R34). -/
  diag : List DiagRecord
  deriving DecidableEq, Repr

/-- Why the core makes NO step. The stops of R240 are no faults here: they are taken, as R252 describes. -/
inductive Fault where
  /-- Raised by `step` alone, in a state whose status is Stopped: "a stop is terminal" (R254), a run that is over has
  no next step (R279). Safe: the machine goes nowhere, as the spec says (notes/assumptions/11). -/
  | runOver (cause : StopCause)
  /-- Raised by the read-character service of ECALL alone, while the host has neither supplied a character nor said that
  none will come: "the core makes no step" (R224, 93_implementation_defined.md U22). Safe: the model stops where
  the hardware waits (notes/assumptions/12). -/
  | waitingForInput
  deriving DecidableEq, Repr

/-- No meaning for an instruction. Every instruction of this model has a meaning, so no step answers this. -/
inductive Refusal where
  /-- Raised by an arm of `exec` whose instruction is not modelled; no arm is left. Safe: nothing is claimed. -/
  | notModelled (mnemonic : String)
  deriving DecidableEq, Repr

/-- What a meaning and a step answer. -/
abbrev Result := Host.Outcome State Fault Refusal

/-- The inputs of one launch (R5, R271, R280): the parameters, ENTRY, IMAGE, REG_INIT and the input stream. -/
structure Launch where
  cfg : Config
  entry : Word
  image : Memory
  /-- `REG_INIT`; its slot 0 is not used (R22). -/
  regInit : Vector Word 32
  input : List Byte
  inputEnded : Bool
  deriving DecidableEq, Repr

/-- The state right after reset, for every launch (R270): pc at ENTRY, memory IMAGE, x0 zero and x1 to x31 REG_INIT, status
Running, nothing executed, output and diagnostic streams empty. -/
def State.ofLaunch (l : Launch) : State where
  cfg := l.cfg
  regs := l.regInit.set 0 0
  pc := l.entry
  mem := l.image
  run := .running
  executed := 0
  output := []
  input := l.input
  inputEnded := l.inputEnded
  diag := []

/-- DESIGN CHOICE (notes/assumptions/1, 2, 3, 5 to 10): the one launch `State.reset` uses; the spec leaves every one of
these inputs to the launch. -/
def Launch.default : Launch where
  cfg := Config.default
  entry := 0
  image := []
  regInit := Vector.replicate 32 0
  input := []
  inputEnded := true

/-- The machine right after reset with the default launch and nothing loaded. -/
def State.reset : State := State.ofLaunch Launch.default

end Sys2Proof.Machine
end

