-- ==== Sys2Proof/Machine/Ops.lean ====
section
/-! DEFINITION. The named operations over memory, registers, the run status and the host streams, and the steps of an
instruction cycle that surround an instruction's own meaning (10_state.md R37). -/

namespace Sys2Proof.Machine

/-! ### Memory (20_memory.md) -/

/-- What an address that is not listed reads as. The spec leaves IMAGE open (R52) and any IMAGE can be listed, so this
is a way of writing memories down; it is a choice of contents only for `State.reset` (DESIGN CHOICE, notes/assumptions/3). -/
def Memory.unlisted : Byte := 0

/-- The canonical form: addresses strictly rising, and no entry equal to what an unlisted address reads as. -/
abbrev Memory.wf (m : Memory) : Prop :=
  m.Pairwise (fun c d => c.1 < d.1) ∧ ∀ c ∈ m, c.2 ≠ Memory.unlisted

/-- Every listed address is one of `mem[0]` to `mem[cap-1]` (R50, R51). -/
abbrev Memory.within (m : Memory) (cap : Nat) : Prop := ∀ c ∈ m, c.1 < cap

/-- The byte `mem[a]` (R50). -/
def Memory.read : Memory → Nat → Byte
  | [], _ => Memory.unlisted
  | c :: m, a => if c.1 = a then c.2 else Memory.read m a

/-- The memory without an entry for address `a`. -/
def Memory.erase (m : Memory) (a : Nat) : Memory := m.filter (fun c => c.1 != a)

/-- An entry put in at its place in the rising order. -/
def Memory.place : Memory → Nat → Byte → Memory
  | [], a, b => [(a, b)]
  | c :: m, a, b => if a < c.1 then (a, b) :: c :: m else c :: Memory.place m a b

/-- `mem[a] <- b`; writing what an unlisted address reads as removes the entry. -/
def Memory.write (m : Memory) (a : Nat) (b : Byte) : Memory :=
  if b = Memory.unlisted then Memory.erase m a else Memory.place (Memory.erase m a) a b

/-- The `8n`-bit value `{mem[a+n-1], ..., mem[a+1], mem[a]}` (R53, R55). -/
def Memory.readLE (m : Memory) (a : Nat) : (n : Nat) → BitVec (8 * n)
  | 0 => 0#0
  | n + 1 => (Memory.readLE m (a + 1) n ++ Memory.read m a : BitVec (8 * n + 8))

/-- `for k in 0 .. n-1: mem[a+k] <- v[8k+7 : 8k]` (R56). -/
def Memory.writeLE {width : Nat} (m : Memory) (a : Nat) (v : BitVec width) : (n : Nat) → Memory
  | 0 => m
  | n + 1 => Memory.write (Memory.writeLE m a v n) (a + n) (v.extractLsb' (8 * n) 8)

/-- An access of `n` bytes at `addr` lies within capacity: `unsigned(addr) + n ≤ CAP`, on exact integers (R57). -/
def State.inBounds (s : State) (addr : Word) (n : Nat) : Bool := decide (addr.toNat + n ≤ s.cfg.cap)

/-- `MemRead(addr, n)` (R55). -/
def State.memRead (s : State) (addr : Word) (n : Nat) : Except StopCause (BitVec (8 * n)) :=
  if s.inBounds addr n then .ok (Memory.readLE s.mem addr.toNat n)
  else .error (.memoryBoundsFault addr n .load)

/-- The state with another memory. -/
def State.setMem (s : State) (m : Memory) : State := { s with mem := m }

/-- `MemWrite(addr, n, v)`: the check comes before any byte is written (R56). -/
def State.memWrite (s : State) (addr : Word) (n : Nat) (v : BitVec (8 * n)) : Except StopCause State :=
  if s.inBounds addr n then .ok (s.setMem (Memory.writeLE s.mem addr.toNat v n))
  else .error (.memoryBoundsFault addr n .store)

/-! ### Registers (10_state.md) -/

/-- A read `x[r]`; x0 reads 0 (R8, R22, R23). -/
def State.readReg (s : State) (r : RegIdx) : Word := if r = 0 then 0 else s.regs.get r

/-- A write `x[r] <- v`; a write to x0 does nothing (R8, R22, R23). -/
def State.writeReg (s : State) (r : RegIdx) (v : Word) : State :=
  { s with regs := if r = 0 then s.regs else s.regs.set r.val v r.isLt }

/-- `pc <- t` (R11). -/
def State.setPc (s : State) (t : Word) : State := { s with pc := t }

/-- The fall-through `pc <- pc + 4`, modulo 2^32 (R27, R28). -/
def State.advance (s : State) : State := s.setPc (s.pc + 4)

/-! ### Stops and reports (60_exceptions.md) -/

/-- Stop entry (R252): the status becomes Stopped with the cause and its record; registers, memory and the host streams
are as they were, and pc keeps the own address (notes/assumptions/21). -/
def State.stop (s : State) (c : StopCause) : State := { s with run := .stopped c }

/-- `raise c`: the one way an exception of this core is taken (R10, R252). There is no handler and no return (R253, R254), so
no operation undoes it. -/
def raise (c : StopCause) (s : State) : Result := .next (s.stop c)

/-- `report r`: one record on the diagnostic stream, nothing else (R10, R249). -/
def State.report (s : State) (r : DiagRecord) : State := { s with diag := s.diag ++ [r] }

/-! ### Writeback -/

/-- Writeback of a result and the fall-through: `x[rd] <- v; pc <- pc + 4` (R37 steps 4c and 4d). -/
def finish (rd : RegIdx) (v : Word) (s : State) : Result := .next (s.writeReg rd v).advance

/-- An instruction with no destination that falls through: `pc <- pc + 4`. -/
def proceed (s : State) : Result := .next s.advance

/-! ### Host streams (00_scope.md R12, 10_state.md R34) -/

/-- `HostPutChar(b)`: one character at the end of the output stream (R223). -/
def State.putChar (s : State) (b : Byte) : State := { s with output := s.output ++ [b] }

/-- The state with other characters left to read. -/
def State.setInput (s : State) (rest : List Byte) : State := { s with input := rest }

/-- What the host's "read character" source has for the core (R12, R224). -/
inductive CharAnswer where
  /-- A character, and the state with it consumed from the input stream. -/
  | char (b : Byte) (rest : State)
  /-- No character is left and none will come. -/
  | exhausted
  /-- Neither yet: the core waits. -/
  | notYet
  deriving DecidableEq, Repr

/-- `HostGetChar()` (R12, R34, R224). -/
def State.getChar (s : State) : CharAnswer :=
  match s.input with
  | b :: rest => .char b (s.setInput rest)
  | [] => if s.inputEnded then .exhausted else .notYet

/-- The host supplies a character: a move of the host between two steps of the core, never a step of the core (R280). After
the host has said that no more will come it supplies nothing. -/
def State.hostSupply (s : State) (b : Byte) : State :=
  { s with input := if s.inputEnded then s.input else s.input ++ [b] }

/-- The host says that no more input will come: a move of the host between two steps of the core (R280). -/
def State.hostEndInput (s : State) : State := { s with inputEnded := true }

/-! ### The instruction cycle around an instruction's meaning (R37) -/

/-- Step 1: the host's ceiling is present and reached (R39, R243). -/
def State.ceilingReached (s : State) : Bool := s.cfg.stepLimit == some s.executed

/-- Step 2: `Fetch(pc)`, bounds first, then alignment (R59, R251). -/
def State.fetch (s : State) : Except StopCause Word :=
  if !s.inBounds s.pc 4 then .error (.fetchBoundsFault s.pc)
  else if s.pc.extractLsb' 0 2 ≠ 0#2 then .error (.misalignedFetch s.pc)
  else .ok ((Memory.readLE s.mem s.pc.toNat 4).setWidth 32)

/-- Step 3: the stop a word takes that is no instruction: UnsupportedOpcode for an opcode outside the ten (R103, R244),
ReservedEncoding for the reserved patterns (R104, R245). A fetched word always has four bytes. -/
def decodeStop (pc w : Word) : DecodeError → StopCause
  | .tooFewBytes => .unsupportedOpcode pc w
  | .unsupportedOpcode => .unsupportedOpcode pc w
  | .reservedFunct7 => .reservedEncoding pc w
  | .reservedAlternate => .reservedEncoding pc w
  | .reservedShift => .reservedEncoding pc w

/-- Step 5: `executed <- executed + 1`, not performed when the cycle has raised a stop (R37). -/
def State.countCycle (t : State) : State :=
  { t with executed := if t.run = .running then t.executed + 1 else t.executed }

/-- Step 5 on what an instruction's meaning answered. -/
def countCompleted : Result → Result
  | .next t => .next t.countCycle
  | .fault f => .fault f
  | .refused r => .refused r

end Sys2Proof.Machine
end

