-- ==== Sys2Proof/Machine/Flags.lean ====
section
/-! DEFINITION. The core has no flag register (10_state.md R31). Its only flags are the three that `Compare` yields inside
one branch (44_branch.md R190); no state holds them. -/

namespace Sys2Proof.Machine

/-- The result of `apply(Compare, a, b)`: "equal, signed-less-than, unsigned-less-than" (R190). -/
structure CompareFlags where
  eq : Bool
  lt : Bool
  ltu : Bool
  deriving DecidableEq, Repr

/-- `Compare`, by exact comparisons of the integers the Words denote, never by a wrapped difference (R7, R190). -/
def aluCompare (a b : Word) : CompareFlags where
  eq := decide (a = b)
  lt := decide (a.toInt < b.toInt)
  ltu := decide (a.toNat < b.toNat)

end Sys2Proof.Machine
end

