-- ==== Sys2Proof/Machine/Operands.lean ====
section
/-! DEFINITION. Every operand form of the core (30_encoding.md R89 to R94, R107): the immediates as Words, shift
amounts, effective addresses and jump targets. -/

namespace Sys2Proof.Machine

/-- `imm_I` and `imm_S`: 12 bits sign-extended (R89, R91). -/
def sext12 (imm : BitVec 12) : Word := imm.signExtend 32

/-- `imm_B`: the 13-bit byte offset sign-extended, not scaled (R92). -/
def sext13 (off : BitVec 13) : Word := off.signExtend 32

/-- `imm_J`: the 21-bit byte offset sign-extended, not scaled (R94). -/
def sext21 (off : BitVec 21) : Word := off.signExtend 32

/-- `imm_U`: the 20 bits above twelve zero bits (R93). -/
def upper20 (imm : BitVec 20) : Word := imm ++ 0#12

/-- `zext_5(shamt)`: a shift amount as the right ALU operand (R90, R98). -/
def zext5 (shamt : BitVec 5) : Word := shamt.setWidth 32

/-- The shift amount of a right operand: bits 4:0, "masked to 5 bits before use" (R123). -/
def shiftAmount (b : Word) : Nat := (b.extractLsb' 0 5).toNat

/-- The effective address of a load or store, `x[rs1] + sext_12(imm)` modulo 2^32 (R170). -/
def State.effAddr (s : State) (rs1 : RegIdx) (imm : BitVec 12) : Word := s.readReg rs1 + sext12 imm

/-- A load's extension multiplexer, signed flavour (R171). -/
def signFill {n : Nat} (v : BitVec (8 * n)) : Word := v.signExtend 32

/-- A load's extension multiplexer, unsigned flavour, and the word width, where the two coincide (R171). -/
def zeroFill {n : Nat} (v : BitVec (8 * n)) : Word := v.setWidth 32

/-- The store value truncated to the access width of `n` bytes (R171). -/
def truncated (n : Nat) (v : Word) : BitVec (8 * n) := v.setWidth (8 * n)

/-- The target of a taken branch: own address plus offset, modulo 2^32 (R190, R197). -/
def State.branchTarget (s : State) (off : BitVec 13) : Word := s.pc + sext13 off

/-- The target of JAL: own address plus offset, modulo 2^32 (R211). -/
def State.jalTarget (s : State) (off : BitVec 21) : Word := s.pc + sext21 off

/-- The target of JALR: the sum with bit 0 forced 0 (R212). -/
def State.jalrTarget (s : State) (rs1 : RegIdx) (imm : BitVec 12) : Word :=
  (s.readReg rs1 + sext12 imm) &&& 0xFFFFFFFE#32

end Sys2Proof.Machine
end

