-- ==== Sys2Proof/Machine/Branch.lean ====
section
/-! DEFINITION. Conditional branches, B format (44_branch.md). -/

namespace Sys2Proof.Machine

/-- The sequencer of a branch (R190): own address plus offset when taken, own address plus 4 otherwise; nothing is
written and a bad target raises nothing here (R197). -/
def branchOp (taken : Bool) (off : BitVec 13) (s : State) : Result :=
  .next (if taken then s.setPc (s.branchTarget off) else s.advance)

/-- The three flags of Compare on the branch's operands (R190). -/
def State.branchFlags (s : State) (rs1 rs2 : RegIdx) : CompareFlags := aluCompare (s.readReg rs1) (s.readReg rs2)

/-- BEQ (R191). -/
def execBeq (rs1 rs2 : RegIdx) (off : BitVec 13) (s : State) : Result :=
  branchOp (s.branchFlags rs1 rs2).eq off s

/-- BNE (R192). -/
def execBne (rs1 rs2 : RegIdx) (off : BitVec 13) (s : State) : Result :=
  branchOp (!(s.branchFlags rs1 rs2).eq) off s

/-- BLT (R193). -/
def execBlt (rs1 rs2 : RegIdx) (off : BitVec 13) (s : State) : Result :=
  branchOp (s.branchFlags rs1 rs2).lt off s

/-- BGE (R194). -/
def execBge (rs1 rs2 : RegIdx) (off : BitVec 13) (s : State) : Result :=
  branchOp (!(s.branchFlags rs1 rs2).lt) off s

/-- BLTU (R195). -/
def execBltu (rs1 rs2 : RegIdx) (off : BitVec 13) (s : State) : Result :=
  branchOp (s.branchFlags rs1 rs2).ltu off s

/-- BGEU (R196). -/
def execBgeu (rs1 rs2 : RegIdx) (off : BitVec 13) (s : State) : Result :=
  branchOp (!(s.branchFlags rs1 rs2).ltu) off s

end Sys2Proof.Machine
end

