-- ==== Sys2Proof/Machine/Alu.lean ====
section
/-! DEFINITION. The ALU operations that yield a Word (30_encoding.md R108), shared by the register-register and the
register-immediate instructions (40_op_register.md R120, 42_op_immediate.md R150). `NoOp` has no value and is not here. -/

namespace Sys2Proof.Machine

/-- Add, modulo 2^32 (R121). -/
def aluAdd (a b : Word) : Word := a + b

/-- Sub, modulo 2^32 (R122). -/
def aluSub (a b : Word) : Word := a - b

/-- ShiftLeftLogical by the low five bits of the right operand (R123). -/
def aluShiftLeft (a b : Word) : Word := a <<< shiftAmount b

/-- ShiftRightLogical: zero-fills (R127). -/
def aluShiftRightLogical (a b : Word) : Word := a >>> shiftAmount b

/-- ShiftRightArithmetic: bit 31 fills (R128). -/
def aluShiftRightArithmetic (a b : Word) : Word := a.sshiftRight (shiftAmount b)

/-- SetLessThan: 1 or 0, on the exact signed integers (R124). -/
def aluSetLessThan (a b : Word) : Word := if a.toInt < b.toInt then 1 else 0

/-- SetLessThanUnsigned: 1 or 0, on the natural numbers (R125). -/
def aluSetLessThanUnsigned (a b : Word) : Word := if a.toNat < b.toNat then 1 else 0

/-- Xor (R126). -/
def aluXor (a b : Word) : Word := a ^^^ b

/-- Or (R129). -/
def aluOr (a b : Word) : Word := a ||| b

/-- And (R130). -/
def aluAnd (a b : Word) : Word := a &&& b

/-- Mul: the low 32 bits of the product (R141). -/
def aluMul (a b : Word) : Word := a * b

/-- The one pair of operands whose signed quotient does not fit: -2^31 by -1 (R142). -/
def isOverflowPair (a b : Word) : Bool := a == 0x80000000#32 && b == 0xFFFFFFFF#32

/-- Div: signed, 0 for a zero divisor, rounded toward zero; `onOverflow` is the configured result for the overflow pair
(R142, U3). -/
def aluDiv (onOverflow : Word) (a b : Word) : Word :=
  if b = 0#32 then 0
  else if isOverflowPair a b then onOverflow
  else BitVec.ofInt 32 (a.toInt.tdiv b.toInt)

/-- DivU: unsigned, 0 for a zero divisor (R143). -/
def aluDivU (a b : Word) : Word := if b = 0#32 then 0 else BitVec.ofNat 32 (a.toNat / b.toNat)

/-- Rem: signed, 0 for a zero divisor, the sign of the dividend; `onOverflow` is the configured result for the overflow
pair (R144, U3). -/
def aluRem (onOverflow : Word) (a b : Word) : Word :=
  if b = 0#32 then 0
  else if isOverflowPair a b then onOverflow
  else BitVec.ofInt 32 (a.toInt - b.toInt * a.toInt.tdiv b.toInt)

/-- RemU: unsigned, 0 for a zero divisor (R145). -/
def aluRemU (a b : Word) : Word := if b = 0#32 then 0 else BitVec.ofNat 32 (a.toNat % b.toNat)

end Sys2Proof.Machine
end

