-- ==== Sys2Proof/Machine/Immediate.lean ====
section
/-! DEFINITION. Register-immediate instructions, I format and its shift variant (42_op_immediate.md). -/

namespace Sys2Proof.Machine

/-- What the family shares (R150): the register instructions' ALU operation with another right operand. -/
def immediateOp (op : Word → Word → Word) (rd rs1 : RegIdx) (right : Word) (s : State) : Result :=
  finish rd (op (s.readReg rs1) right) s

/-- ADDI (R151). -/
def execAddi (rd rs1 : RegIdx) (imm : BitVec 12) (s : State) : Result :=
  immediateOp aluAdd rd rs1 (sext12 imm) s

/-- SLTI (R152). -/
def execSlti (rd rs1 : RegIdx) (imm : BitVec 12) (s : State) : Result :=
  immediateOp aluSetLessThan rd rs1 (sext12 imm) s

/-- SLTIU (R153). -/
def execSltiu (rd rs1 : RegIdx) (imm : BitVec 12) (s : State) : Result :=
  immediateOp aluSetLessThanUnsigned rd rs1 (sext12 imm) s

/-- XORI (R154). -/
def execXori (rd rs1 : RegIdx) (imm : BitVec 12) (s : State) : Result :=
  immediateOp aluXor rd rs1 (sext12 imm) s

/-- ORI (R155). -/
def execOri (rd rs1 : RegIdx) (imm : BitVec 12) (s : State) : Result :=
  immediateOp aluOr rd rs1 (sext12 imm) s

/-- ANDI (R156). -/
def execAndi (rd rs1 : RegIdx) (imm : BitVec 12) (s : State) : Result :=
  immediateOp aluAnd rd rs1 (sext12 imm) s

/-- SLLI (R157). -/
def execSlli (rd rs1 : RegIdx) (shamt : BitVec 5) (s : State) : Result :=
  immediateOp aluShiftLeft rd rs1 (zext5 shamt) s

/-- SRLI (R158). -/
def execSrli (rd rs1 : RegIdx) (shamt : BitVec 5) (s : State) : Result :=
  immediateOp aluShiftRightLogical rd rs1 (zext5 shamt) s

/-- SRAI (R159). -/
def execSrai (rd rs1 : RegIdx) (shamt : BitVec 5) (s : State) : Result :=
  immediateOp aluShiftRightArithmetic rd rs1 (zext5 shamt) s

end Sys2Proof.Machine
end

