-- ==== Sys2Proof/Machine/Jump.lean ====
section
/-! DEFINITION. Unconditional jumps, J and I formats (46_jump.md). -/

namespace Sys2Proof.Machine

/-- What the jumps share (R210): the link `pc + 4` goes to `rd` and pc to the target. The target is computed by the caller from
the state before the write (R38); a bad target raises nothing here. -/
def jumpOp (rd : RegIdx) (target : Word) (s : State) : Result :=
  .next ((s.writeReg rd (s.pc + 4)).setPc target)

/-- JAL (R211). -/
def execJal (rd : RegIdx) (off : BitVec 21) (s : State) : Result :=
  jumpOp rd (s.jalTarget off) s

/-- JALR (R212); the target uses the old `x[rs1]`. -/
def execJalr (rd rs1 : RegIdx) (imm : BitVec 12) (s : State) : Result :=
  jumpOp rd (s.jalrTarget rs1 imm) s

end Sys2Proof.Machine
end

