-- ==== Sys2Proof/Machine/LoadStore.lean ====
section
/-! DEFINITION. Loads, stores and the unrecognised widths (43_load_store.md). -/

namespace Sys2Proof.Machine

/-- What the loads share (R170, R171): effective address, bounds check, extension, writeback. The check precedes the
write, and a load to x0 still makes its access (R22). -/
def loadOp (n : Nat) (extend : BitVec (8 * n) → Word) (rd rs1 : RegIdx) (imm : BitVec 12) (s : State) : Result :=
  match s.memRead (s.effAddr rs1 imm) n with
  | .ok v => finish rd (extend v) s
  | .error c => raise c s

/-- What the stores share (R170, R171): effective address, bounds check, the truncated value. -/
def storeOp (n : Nat) (rs1 rs2 : RegIdx) (imm : BitVec 12) (s : State) : Result :=
  match s.memWrite (s.effAddr rs1 imm) n (truncated n (s.readReg rs2)) with
  | .ok t => proceed t
  | .error c => raise c s

/-- What the unrecognised widths share (R180, R181): a report carrying the own address and the word; no access, no check,
no register written (notes/assumptions/13). -/
def unrecognizedWidth (i : Instr) (s : State) : Result :=
  proceed (s.report (.unrecognizedWidth s.pc (encode i)))

/-- LB (R172). -/
def execLb (rd rs1 : RegIdx) (imm : BitVec 12) (s : State) : Result :=
  loadOp 1 signFill rd rs1 imm s

/-- LH (R173). -/
def execLh (rd rs1 : RegIdx) (imm : BitVec 12) (s : State) : Result :=
  loadOp 2 signFill rd rs1 imm s

/-- LW (R174). -/
def execLw (rd rs1 : RegIdx) (imm : BitVec 12) (s : State) : Result :=
  loadOp 4 zeroFill rd rs1 imm s

/-- LBU (R175). -/
def execLbu (rd rs1 : RegIdx) (imm : BitVec 12) (s : State) : Result :=
  loadOp 1 zeroFill rd rs1 imm s

/-- LHU (R176). -/
def execLhu (rd rs1 : RegIdx) (imm : BitVec 12) (s : State) : Result :=
  loadOp 2 zeroFill rd rs1 imm s

/-- SB (R177). -/
def execSb (rs1 rs2 : RegIdx) (imm : BitVec 12) (s : State) : Result :=
  storeOp 1 rs1 rs2 imm s

/-- SH (R178). -/
def execSh (rs1 rs2 : RegIdx) (imm : BitVec 12) (s : State) : Result :=
  storeOp 2 rs1 rs2 imm s

/-- SW (R179). -/
def execSw (rs1 rs2 : RegIdx) (imm : BitVec 12) (s : State) : Result :=
  storeOp 4 rs1 rs2 imm s

/-- LOAD.WIDTH3 (R180). -/
def execLoadWidth3 (rd rs1 : RegIdx) (imm : BitVec 12) (s : State) : Result :=
  unrecognizedWidth (.loadWidth3 rd rs1 imm) s

/-- LOAD.WIDTH6 (R180). -/
def execLoadWidth6 (rd rs1 : RegIdx) (imm : BitVec 12) (s : State) : Result :=
  unrecognizedWidth (.loadWidth6 rd rs1 imm) s

/-- LOAD.WIDTH7 (R180). -/
def execLoadWidth7 (rd rs1 : RegIdx) (imm : BitVec 12) (s : State) : Result :=
  unrecognizedWidth (.loadWidth7 rd rs1 imm) s

/-- STORE.WIDTH3 (R181). -/
def execStoreWidth3 (rs1 rs2 : RegIdx) (imm : BitVec 12) (s : State) : Result :=
  unrecognizedWidth (.storeWidth3 rs1 rs2 imm) s

/-- STORE.WIDTH4 (R181). -/
def execStoreWidth4 (rs1 rs2 : RegIdx) (imm : BitVec 12) (s : State) : Result :=
  unrecognizedWidth (.storeWidth4 rs1 rs2 imm) s

/-- STORE.WIDTH5 (R181). -/
def execStoreWidth5 (rs1 rs2 : RegIdx) (imm : BitVec 12) (s : State) : Result :=
  unrecognizedWidth (.storeWidth5 rs1 rs2 imm) s

/-- STORE.WIDTH6 (R181). -/
def execStoreWidth6 (rs1 rs2 : RegIdx) (imm : BitVec 12) (s : State) : Result :=
  unrecognizedWidth (.storeWidth6 rs1 rs2 imm) s

/-- STORE.WIDTH7 (R181). -/
def execStoreWidth7 (rs1 rs2 : RegIdx) (imm : BitVec 12) (s : State) : Result :=
  unrecognizedWidth (.storeWidth7 rs1 rs2 imm) s

end Sys2Proof.Machine
end

