-- ==== Sys2Proof/Machine/Register.lean ====
section
/-! DEFINITION. Register-register instructions, R format, funct7 0x00 and 0x20 (40_op_register.md). -/

namespace Sys2Proof.Machine

/-- What the family shares (R120): both operands are read from the state before the write; the result goes to `rd`. -/
def registerOp (op : Word → Word → Word) (rd rs1 rs2 : RegIdx) (s : State) : Result :=
  finish rd (op (s.readReg rs1) (s.readReg rs2)) s

/-- ADD (R121). -/
def execAdd (rd rs1 rs2 : RegIdx) (s : State) : Result :=
  registerOp aluAdd rd rs1 rs2 s

/-- SUB (R122). -/
def execSub (rd rs1 rs2 : RegIdx) (s : State) : Result :=
  registerOp aluSub rd rs1 rs2 s

/-- SLL (R123). -/
def execSll (rd rs1 rs2 : RegIdx) (s : State) : Result :=
  registerOp aluShiftLeft rd rs1 rs2 s

/-- SLT (R124). -/
def execSlt (rd rs1 rs2 : RegIdx) (s : State) : Result :=
  registerOp aluSetLessThan rd rs1 rs2 s

/-- SLTU (R125). -/
def execSltu (rd rs1 rs2 : RegIdx) (s : State) : Result :=
  registerOp aluSetLessThanUnsigned rd rs1 rs2 s

/-- XOR (R126). -/
def execXor (rd rs1 rs2 : RegIdx) (s : State) : Result :=
  registerOp aluXor rd rs1 rs2 s

/-- SRL (R127). -/
def execSrl (rd rs1 rs2 : RegIdx) (s : State) : Result :=
  registerOp aluShiftRightLogical rd rs1 rs2 s

/-- SRA (R128). -/
def execSra (rd rs1 rs2 : RegIdx) (s : State) : Result :=
  registerOp aluShiftRightArithmetic rd rs1 rs2 s

/-- OR (R129). -/
def execOr (rd rs1 rs2 : RegIdx) (s : State) : Result :=
  registerOp aluOr rd rs1 rs2 s

/-- AND (R130). -/
def execAnd (rd rs1 rs2 : RegIdx) (s : State) : Result :=
  registerOp aluAnd rd rs1 rs2 s

end Sys2Proof.Machine
end

