-- ==== Sys2Proof/Machine/MulDiv.lean ====
section
/-! DEFINITION. Multiply, divide and remainder, R format, funct7 0x01 (41_op_muldiv.md). None of them can stop the run (R140). -/

namespace Sys2Proof.Machine

/-- MUL (R141). -/
def execMul (rd rs1 rs2 : RegIdx) (s : State) : Result :=
  registerOp aluMul rd rs1 rs2 s

/-- DIV (R142). -/
def execDiv (rd rs1 rs2 : RegIdx) (s : State) : Result :=
  registerOp (aluDiv s.cfg.divOverflow) rd rs1 rs2 s

/-- DIVU (R143). -/
def execDivu (rd rs1 rs2 : RegIdx) (s : State) : Result :=
  registerOp aluDivU rd rs1 rs2 s

/-- REM (R144). -/
def execRem (rd rs1 rs2 : RegIdx) (s : State) : Result :=
  registerOp (aluRem s.cfg.remOverflow) rd rs1 rs2 s

/-- REMU (R145). -/
def execRemu (rd rs1 rs2 : RegIdx) (s : State) : Result :=
  registerOp aluRemU rd rs1 rs2 s

end Sys2Proof.Machine
end

