-- ==== Sys2Proof/Machine/Reserved.lean ====
section
/-! DEFINITION. The reserved words that have a row of the opcode table (30_encoding.md R104 cases c and e, 41_op_muldiv.md R146). -/

namespace Sys2Proof.Machine

/-- What the reserved words share (R104, R245): the stop ReservedEncoding with the own address and the word, which the encoder
gives back bit for bit, since these instructions carry every field of it (notes/assumptions/16). -/
def reservedWord (i : Instr) (s : State) : Result := raise (.reservedEncoding s.pc (encode i)) s

/-- RESERVED.MULH (R146). -/
def execReservedMulh (rd rs1 rs2 : RegIdx) (s : State) : Result :=
  reservedWord (.reservedMulh rd rs1 rs2) s

/-- RESERVED.MULHSU (R146). -/
def execReservedMulhsu (rd rs1 rs2 : RegIdx) (s : State) : Result :=
  reservedWord (.reservedMulhsu rd rs1 rs2) s

/-- RESERVED.MULHU (R146). -/
def execReservedMulhu (rd rs1 rs2 : RegIdx) (s : State) : Result :=
  reservedWord (.reservedMulhu rd rs1 rs2) s

/-- RESERVED.BRANCH2 (R104). -/
def execReservedBranch2 (rs1 rs2 : RegIdx) (off : BitVec 13) (s : State) : Result :=
  reservedWord (.reservedBranch2 rs1 rs2 off) s

/-- RESERVED.BRANCH3 (R104). -/
def execReservedBranch3 (rs1 rs2 : RegIdx) (off : BitVec 13) (s : State) : Result :=
  reservedWord (.reservedBranch3 rs1 rs2 off) s

end Sys2Proof.Machine
end

