-- ==== Sys2Proof/Machine/System.lean ====
section
/-! DEFINITION. System instructions and the system-call services (47_system.md). -/

namespace Sys2Proof.Machine

/-- x17 (a7), the selector of an ECALL (R221). -/
def a7 : RegIdx := 17

/-- x10 (a0), the payload of an ECALL (R221). -/
def a0 : RegIdx := 10

/-- The exit service (R222): the stop Exit carries all 32 bits of x10. -/
def exitService (s : State) : Result := raise (.exit (s.readReg a0)) s

/-- The write-character service (R223): the low 8 bits of x10 go to the output stream (notes/assumptions/18). -/
def putcharService (s : State) : Result := proceed (s.putChar ((s.readReg a0).setWidth 8))

/-- The read-character service (R224): the character zero-extended (notes/assumptions/18), GETCHAR_EOF on exhausted input,
and no step while the host has not answered (notes/assumptions/12). -/
def getcharService (s : State) : Result :=
  match s.getChar with
  | .char b t => finish a0 (b.setWidth 32) t
  | .exhausted => finish a0 s.cfg.getcharEof s
  | .notYet => .fault .waitingForInput

/-- The debug-print service (R225): one record carrying x10 on the diagnostic stream (notes/assumptions/20). -/
def debugService (s : State) : Result := proceed (s.report (.debugPrint (s.readReg a0)))

/-- An unknown selector (R226): reported, otherwise a no-op. -/
def unknownService (s : State) : Result := proceed (s.report (.unknownSyscall s.pc (s.readReg a7)))

/-- ECALL (R221): the service x17 selects, compared as a whole Word. -/
def execEcall (s : State) : Result :=
  if s.readReg a7 = s.cfg.sysExit then exitService s
  else if s.readReg a7 = s.cfg.sysPutchar then putcharService s
  else if s.readReg a7 = s.cfg.sysGetchar then getcharService s
  else if s.readReg a7 = s.cfg.sysDebug then debugService s
  else unknownService s

/-- EBREAK (R227): the stop Breakpoint. -/
def execEbreak (s : State) : Result := raise .breakpoint s

/-- The SYSTEM no-op (R228): only pc advances; its immediate selects nothing. -/
def execSystemNop (_imm : BitVec 12) (s : State) : Result := proceed s

end Sys2Proof.Machine
end

