-- ==== Sys2Proof/Machine/Upper.lean ====
section
/-! DEFINITION. Upper-immediate instructions, U format (45_upper_immediate.md). -/

namespace Sys2Proof.Machine

/-- LUI (R201): the left operand of the Add is 0. -/
def execLui (rd : RegIdx) (imm : BitVec 20) (s : State) : Result :=
  finish rd (aluAdd 0 (upper20 imm)) s

/-- AUIPC (R202): the left operand of the Add is the own address. -/
def execAuipc (rd : RegIdx) (imm : BitVec 20) (s : State) : Result :=
  finish rd (aluAdd s.pc (upper20 imm)) s

end Sys2Proof.Machine
end

