-- ==== Sys2Proof/Machine/Step.lean ====
section
/-! DEFINITION. One step: one whole instruction cycle (10_state.md R37), from a Running state to the next. -/

namespace Sys2Proof.Machine

/-- One instruction cycle (R37), its checks in the order of R251: the ceiling, the fetch, the decoder, the instruction. A
Stopped core makes no step (R254, R279). -/
def step (s : State) : Host.Outcome State Fault Refusal :=
  match s.run with
  | .stopped c => .fault (.runOver c)
  | .running =>
    if s.ceilingReached then raise .stepLimit s
    else
      match s.fetch with
      | .error c => raise c s
      | .ok w =>
        match decodeWord w with
        | .error e => raise (decodeStop s.pc w e) s
        | .ok i => countCompleted (exec i s)

/-- The state with the instruction word `w` in the four bytes at pc, where the next step fetches; bytes that do not exist
(R51) are not written. A program comes to run from reset in this way only: the loader places it (R272; notes/assumptions/27). -/
def State.withFetchWord (s : State) (nbits w : Nat) : State :=
  if s.inBounds s.pc 4 then s.setMem (Memory.writeLE s.mem s.pc.toNat (tableWord nbits w) 4) else s

end Sys2Proof.Machine
end

