-- ==== Sys2Proof/Safety.lean ====
section
/-! DEFINITION. What counts as a safe run (60_exceptions.md R240), what a claim may start from (70_reset_and_hazards.md
R270, R272), and the invariant that holds of every state a run reaches. -/

namespace Sys2Proof.Machine

/-- The fatal stops of R240 and R250: "a fault that no correct program reaches". -/
def StopCause.fatal : StopCause → Bool
  | .exit _ => false
  | .breakpoint => false
  | .stepLimit => false
  | .unsupportedOpcode _ _ => true
  | .reservedEncoding _ _ => true
  | .fetchBoundsFault _ => true
  | .misalignedFetch _ => true
  | .memoryBoundsFault _ _ _ => true

/-- The code of `stop_cause` (R250, D14). -/
def StopCause.code : StopCause → Nat
  | .exit _ => 1
  | .breakpoint => 2
  | .stepLimit => 3
  | .unsupportedOpcode _ _ => 4
  | .reservedEncoding _ _ => 5
  | .fetchBoundsFault _ => 6
  | .misalignedFetch _ => 7
  | .memoryBoundsFault _ _ _ => 8

/-- `stop_cause` as a code, 0 "still running" (R250). -/
def State.stopCode (s : State) : Nat :=
  match s.run with
  | .running => 0
  | .stopped c => c.code

/-- `exit_status`, valid when the cause is Exit (R33). -/
def State.exitStatus (s : State) : Option Word :=
  match s.run with
  | .stopped (.exit n) => some n
  | _ => none

/-- The state has not stopped fatally (R240). -/
def State.safe (s : State) : Bool :=
  match s.run with
  | .running => true
  | .stopped c => !c.fatal

/-- A launch the loader may deliver (R5, R272): admissible parameters, and an IMAGE inside [0, CAP) in canonical form. -/
abbrev Launch.WF (l : Launch) : Prop := l.cfg.WF ∧ Memory.wf l.image ∧ Memory.within l.image l.cfg.cap

/-- The states a run from `s` reaches, the host's moves between steps among them (R280). -/
inductive Reaches (s : State) : State → Prop
  | start : Reaches s s
  | step {t u : State} : Reaches s t → Machine.step t = .next u → Reaches s u
  | supply {t : State} (b : Byte) : Reaches s t → Reaches s (t.hostSupply b)
  | endInput {t : State} : Reaches s t → Reaches s t.hostEndInput

/-- A run from `s` is safe when no state it reaches has stopped fatally (R240). -/
def SafeRun (s : State) : Prop := ∀ t, Reaches s t → t.safe = true

/-- What holds of every state a run reaches: the parameters are admissible (R5), x0's slot holds 0 (R22), memory is in
canonical form and lists addresses below CAP only (R50, R51). -/
structure State.Inv (s : State) : Prop where
  cfgWF : s.cfg.WF
  zeroSlot : s.regs.get 0 = 0
  memWF : Memory.wf s.mem
  memWithin : Memory.within s.mem s.cfg.cap

end Sys2Proof.Machine
end

