-- ==== Sys2Proof/Certificates/Slice0/Obligations.lean ====
section
/-! DEFINITION. The statements for the provers. Each formalises numbered rules of spec/, named in its docstring and in
OBLIGATIONS.json. The words they are said with stand first, under Sys2Proof.Claims. Where a statement equates the state
after a stop with `s.stop c`, pc is part of it: that it keeps the own address is the spec's convention (D16, D25;
notes/assumptions/21). -/

namespace Sys2Proof.Claims

open Sys2Proof.Machine

/-! ### What a next state changes and what it leaves -/

/-- The parts of the state no ordinary instruction touches: parameters, run status, step count, host streams. -/
structure SameRest (s t : State) : Prop where
  cfg : t.cfg = s.cfg
  run : t.run = s.run
  executed : t.executed = s.executed
  output : t.output = s.output
  input : t.input = s.input
  inputEnded : t.inputEnded = s.inputEnded
  diag : t.diag = s.diag

/-- Every register reads as before. -/
abbrev SameRegs (s t : State) : Prop := ∀ r, t.readReg r = s.readReg r

/-- Every byte of memory reads as before. -/
abbrev SameBytes (s t : State) : Prop := ∀ a, Memory.read t.mem a = Memory.read s.mem a

/-- `x[rd] <- v` (dropped when rd = 0), pc at `next`, and nothing else changes (R22, R38). -/
structure WritesReg (s t : State) (rd : RegIdx) (v next : Word) : Prop where
  result : rd ≠ 0 → t.readReg rd = v
  zero : t.readReg 0 = 0
  otherRegs : ∀ r, r ≠ rd → t.readReg r = s.readReg r
  pc : t.pc = next
  bytes : SameBytes s t
  rest : SameRest s t

/-- Only pc changes, to `next`. -/
structure OnlyPc (s t : State) (next : Word) : Prop where
  regs : SameRegs s t
  pc : t.pc = next
  bytes : SameBytes s t
  rest : SameRest s t

/-- The `n` bytes from address `a` hold the low `8n` bits of `v`, lowest byte first, pc falls through, and nothing else
changes. -/
structure Stores (s t : State) (a n : Nat) (v : Word) : Prop where
  regs : SameRegs s t
  pc : t.pc = s.pc + 4
  stored : ∀ k, k < n → Memory.read t.mem (a + k) = v.extractLsb' (8 * k) 8
  outside : ∀ x, x < a ∨ a + n ≤ x → Memory.read t.mem x = Memory.read s.mem x
  rest : SameRest s t

/-- The stop `c` is taken: status Stopped with that cause and record, and no register, byte, count or
stream changes. It says nothing of the final pc: "a
claim about a stopped run should be stated on registers, memory, output, cause and `stop_info`, not on the final pc" (R252). -/
structure TakesStop (s t : State) (c : StopCause) : Prop where
  run : t.run = .stopped c
  regs : SameRegs s t
  bytes : SameBytes s t
  cfg : t.cfg = s.cfg
  executed : t.executed = s.executed
  output : t.output = s.output
  input : t.input = s.input
  inputEnded : t.inputEnded = s.inputEnded
  diag : t.diag = s.diag

/-! ### What a row of the opcode table means: its words decode to the instruction, and the instruction has its effect -/

/-- Every word `w` with `w &&& mask = pattern` decodes to `mk w` (R112). -/
abbrev RowDecodes (pattern mask : Word) (mk : Word → Instr) : Prop :=
  ∀ w, w &&& mask = pattern → decodeWord w = .ok (mk w)

/-- A row of the R format whose instruction writes `value x[rs1] x[rs2]` to rd. -/
abbrev RegisterRow (pattern : Word) (mk : RegIdx → RegIdx → RegIdx → Instr) (value : Word → Word → Word) : Prop :=
  RowDecodes pattern 0xFE00707F (fun w => mk (rdOf w) (rs1Of w) (rs2Of w)) ∧
  ∀ s rd rs1 rs2, ∃ t, exec (mk rd rs1 rs2) s = .next t ∧
    WritesReg s t rd (value (s.readReg rs1) (s.readReg rs2)) (s.pc + 4)

/-- A row of the I format whose instruction writes `value x[rs1] imm_I` to rd, imm_I being sign-extended. -/
abbrev ImmediateRow (pattern : Word) (mk : RegIdx → RegIdx → BitVec 12 → Instr) (value : Word → Word → Word) : Prop :=
  RowDecodes pattern 0x0000707F (fun w => mk (rdOf w) (rs1Of w) (immIOf w)) ∧
  ∀ s rd rs1 imm, ∃ t, exec (mk rd rs1 imm) s = .next t ∧
    WritesReg s t rd (value (s.readReg rs1) (imm.signExtend 32)) (s.pc + 4)

/-- A row of the shift variant whose instruction writes `value x[rs1] shamt` to rd. -/
abbrev ShiftRow (pattern mask : Word) (mk : RegIdx → RegIdx → BitVec 5 → Instr) (value : Word → Nat → Word) : Prop :=
  RowDecodes pattern mask (fun w => mk (rdOf w) (rs1Of w) (shamtOf w)) ∧
  ∀ s rd rs1 shamt, ∃ t, exec (mk rd rs1 shamt) s = .next t ∧
    WritesReg s t rd (value (s.readReg rs1) shamt.toNat) (s.pc + 4)

/-- A load row of `n` bytes: in bounds it writes `value` of the memory at the effective address to rd; out of bounds it takes
MemoryBoundsFault and leaves registers, memory and streams alone. -/
abbrev LoadRow (pattern : Word) (mk : RegIdx → RegIdx → BitVec 12 → Instr) (n : Nat) (value : Memory → Nat → Word) :
    Prop :=
  RowDecodes pattern 0x0000707F (fun w => mk (rdOf w) (rs1Of w) (immIOf w)) ∧
  ∀ s rd rs1 imm,
    ((s.readReg rs1 + imm.signExtend 32).toNat + n ≤ s.cfg.cap →
      ∃ t, exec (mk rd rs1 imm) s = .next t ∧
        WritesReg s t rd (value s.mem (s.readReg rs1 + imm.signExtend 32).toNat) (s.pc + 4)) ∧
    (s.cfg.cap < (s.readReg rs1 + imm.signExtend 32).toNat + n →
      ∃ t, exec (mk rd rs1 imm) s = .next t ∧
        TakesStop s t (.memoryBoundsFault (s.readReg rs1 + imm.signExtend 32) n .load))

/-- A store row of `n` bytes: in bounds it stores the low bytes of x[rs2] at the effective address; out of bounds it takes
MemoryBoundsFault and leaves registers, memory and streams alone. -/
abbrev StoreRow (pattern : Word) (mk : RegIdx → RegIdx → BitVec 12 → Instr) (n : Nat) : Prop :=
  RowDecodes pattern 0x0000707F (fun w => mk (rs1Of w) (rs2Of w) (immSOf w)) ∧
  ∀ s rs1 rs2 imm,
    ((s.readReg rs1 + imm.signExtend 32).toNat + n ≤ s.cfg.cap →
      ∃ t, exec (mk rs1 rs2 imm) s = .next t ∧
        Stores s t (s.readReg rs1 + imm.signExtend 32).toNat n (s.readReg rs2)) ∧
    (s.cfg.cap < (s.readReg rs1 + imm.signExtend 32).toNat + n →
      ∃ t, exec (mk rs1 rs2 imm) s = .next t ∧
        TakesStop s t (.memoryBoundsFault (s.readReg rs1 + imm.signExtend 32) n .store))

/-- The store `st` runs without stopping, and then the load `ld` into a register other than x0 from the byte `k` places above the
stored address: it gives `value` of the stored register. Store and load may use different base registers. -/
abbrev StoreThenLoad (st ld : RegIdx → RegIdx → BitVec 12 → Instr) (k : Nat) (value : Word → Word) : Prop :=
  ∀ s t u rs1 rs2 rd rb imm imm', s.run = .running → exec (st rs1 rs2 imm) s = .next t → t.run = .running → rd ≠ 0 →
    (t.effAddr rb imm').toNat = (s.effAddr rs1 imm).toNat + k → exec (ld rd rb imm') t = .next u →
    u.readReg rd = value (s.readReg rs2)

/-- A branch row: pc goes to own address plus offset exactly when `taken x[rs1] x[rs2]`, else to own address plus 4. -/
abbrev BranchRow (pattern : Word) (mk : RegIdx → RegIdx → BitVec 13 → Instr) (taken : Word → Word → Prop) : Prop :=
  RowDecodes pattern 0x0000707F (fun w => mk (rs1Of w) (rs2Of w) (offBOf w)) ∧
  ∀ s rs1 rs2 off, ∃ t, exec (mk rs1 rs2 off) s = .next t ∧
    (taken (s.readReg rs1) (s.readReg rs2) → OnlyPc s t (s.pc + off.signExtend 32)) ∧
    (¬ taken (s.readReg rs1) (s.readReg rs2) → OnlyPc s t (s.pc + 4))

/-- A row of an unrecognised width: one report carrying the own address and the very word, pc falls through, and nothing else
changes. -/
abbrev WidthRow (pattern : Word) (mk : Word → Instr) : Prop :=
  RowDecodes pattern 0x0000707F mk ∧
  ∀ s w, w &&& 0x0000707F = pattern → ∃ t, exec (mk w) s = .next t ∧ SameRegs s t ∧ t.pc = s.pc + 4 ∧
    SameBytes s t ∧ t.diag = s.diag ++ [.unrecognizedWidth s.pc w] ∧ t.cfg = s.cfg ∧ t.run = s.run ∧
    t.executed = s.executed ∧ t.output = s.output ∧ t.input = s.input ∧ t.inputEnded = s.inputEnded

/-- A row of a reserved word: the instruction takes ReservedEncoding with the own address and the very word. -/
abbrev ReservedRow (pattern mask : Word) (mk : Word → Instr) : Prop :=
  RowDecodes pattern mask mk ∧
  ∀ s w, w &&& mask = pattern → exec (mk w) s = .next (s.stop (.reservedEncoding s.pc w))

/-! ### The instruction cycle -/

/-- The core is at the head of a cycle it will perform: Running, the ceiling not reached (R37). -/
abbrev Ready (s : State) : Prop := s.run = .running ∧ s.cfg.stepLimit ≠ some s.executed

/-- A cycle in which the word `w` is fetched (R59). -/
abbrev Fetches (s : State) (w : Word) : Prop := Ready s ∧ s.fetch = .ok w

/-- The core waits inside the read-character service (R224). -/
abbrev Waits (s : State) : Prop :=
  s.readReg 17 = s.cfg.sysGetchar ∧ s.input = [] ∧ s.inputEnded = false

/-- The ten supported major opcodes (R96). -/
def supportedOpcodes : List (BitVec 7) := [0x33, 0x13, 0x03, 0x23, 0x63, 0x37, 0x17, 0x6F, 0x67, 0x73]

/-- The register an instruction writes: its rd, or x10 for the read-character service (R107, R220). -/
def destination (s : State) : Instr → Option RegIdx
  | .add rd _ _ | .sub rd _ _ | .sll rd _ _ | .slt rd _ _ | .sltu rd _ _ | .xor rd _ _ | .srl rd _ _ | .sra rd _ _
  | .or rd _ _ | .and rd _ _ | .mul rd _ _ | .div rd _ _ | .divu rd _ _ | .rem rd _ _ | .remu rd _ _ => some rd
  | .addi rd _ _ | .slti rd _ _ | .sltiu rd _ _ | .xori rd _ _ | .ori rd _ _ | .andi rd _ _ => some rd
  | .slli rd _ _ | .srli rd _ _ | .srai rd _ _ => some rd
  | .lb rd _ _ | .lh rd _ _ | .lw rd _ _ | .lbu rd _ _ | .lhu rd _ _ => some rd
  | .lui rd _ | .auipc rd _ | .jal rd _ | .jalr rd _ _ => some rd
  | .ecall => if s.readReg 17 = s.cfg.sysGetchar then some 10 else none
  | _ => none

/-- A LOAD or STORE word whose funct3 names no width (R180, R181). -/
def namesNoWidth : Instr → Bool
  | .loadWidth3 _ _ _ | .loadWidth6 _ _ _ | .loadWidth7 _ _ _ => true
  | .storeWidth3 _ _ _ | .storeWidth4 _ _ _ | .storeWidth5 _ _ _ | .storeWidth6 _ _ _ | .storeWidth7 _ _ _ => true
  | _ => false

/-- The address and the number of bytes an instruction stores to (R60, R170). -/
def storedSpan (s : State) : Instr → Option (Word × Nat)
  | .sb rs1 _ imm => some (s.effAddr rs1 imm, 1)
  | .sh rs1 _ imm => some (s.effAddr rs1 imm, 2)
  | .sw rs1 _ imm => some (s.effAddr rs1 imm, 4)
  | _ => none

/-- The next pc of an instruction that completes (R27): a branch, JAL, JALR, "All other formats: PC = own-address + 4". -/
def nextPc (s : State) : Instr → Word
  | .beq rs1 rs2 off => if s.readReg rs1 = s.readReg rs2 then s.pc + off.signExtend 32 else s.pc + 4
  | .bne rs1 rs2 off => if s.readReg rs1 ≠ s.readReg rs2 then s.pc + off.signExtend 32 else s.pc + 4
  | .blt rs1 rs2 off => if (s.readReg rs1).toInt < (s.readReg rs2).toInt then s.pc + off.signExtend 32 else s.pc + 4
  | .bge rs1 rs2 off => if (s.readReg rs1).toInt ≥ (s.readReg rs2).toInt then s.pc + off.signExtend 32 else s.pc + 4
  | .bltu rs1 rs2 off => if (s.readReg rs1).toNat < (s.readReg rs2).toNat then s.pc + off.signExtend 32 else s.pc + 4
  | .bgeu rs1 rs2 off => if (s.readReg rs1).toNat ≥ (s.readReg rs2).toNat then s.pc + off.signExtend 32 else s.pc + 4
  | .jal _ off => s.pc + off.signExtend 32
  | .jalr _ rs1 imm => (s.readReg rs1 + imm.signExtend 32) &&& 0xFFFFFFFE
  | _ => s.pc + 4

/-- The instruction a stop of the execute step belongs to, and what it records (R241, R242, R245, R248). -/
def raisedBy (s : State) (i : Instr) : StopCause → Prop
  | .exit n => i = .ecall ∧ s.readReg 17 = s.cfg.sysExit ∧ n = s.readReg 10
  | .breakpoint => i = .ebreak
  | .reservedEncoding pc w => pc = s.pc ∧ w = encode i ∧
      ((∃ rd rs1 rs2, i = .reservedMulh rd rs1 rs2 ∨ i = .reservedMulhsu rd rs1 rs2 ∨ i = .reservedMulhu rd rs1 rs2) ∨
       ∃ rs1 rs2 off, i = .reservedBranch2 rs1 rs2 off ∨ i = .reservedBranch3 rs1 rs2 off)
  | .memoryBoundsFault ea n .load => s.cfg.cap < ea.toNat + n ∧
      ∃ rd rs1 imm, ea = s.readReg rs1 + imm.signExtend 32 ∧
        ((n = 1 ∧ (i = .lb rd rs1 imm ∨ i = .lbu rd rs1 imm)) ∨
         (n = 2 ∧ (i = .lh rd rs1 imm ∨ i = .lhu rd rs1 imm)) ∨ (n = 4 ∧ i = .lw rd rs1 imm))
  | .memoryBoundsFault ea n .store => s.cfg.cap < ea.toNat + n ∧
      ∃ rs1 rs2 imm, ea = s.readReg rs1 + imm.signExtend 32 ∧
        ((n = 1 ∧ i = .sb rs1 rs2 imm) ∨ (n = 2 ∧ i = .sh rs1 rs2 imm) ∨ (n = 4 ∧ i = .sw rs1 rs2 imm))
  | _ => False

/-- Two outcomes that differ at most in the output and diagnostic streams of the next state. -/
def SameButLogs : Result → Result → Prop
  | .next t, .next u => u = { t with output := u.output, diag := u.diag }
  | .fault f, .fault g => f = g
  | .refused f, .refused g => f = g
  | _, _ => False

end Sys2Proof.Claims

open Sys2Proof Sys2Proof.Machine Sys2Proof.Claims

/-! ### Encoding and decoding (30_encoding.md) -/

/-- Words of the source's own examples and of the spec's tables decode to the instructions they stand for, one or more of
every family (95_test_vectors.md T3, T4, T6, V1 to V12; 44_branch.md R192 for 0xFE209CE3). -/
def Obligations.SpecWordsDecode : Prop :=
  decodeWord 0x00000033 = .ok (.add 0 0 0) ∧ decodeWord 0x402081B3 = .ok (.sub 3 1 2) ∧
  decodeWord 0x0220C1B3 = .ok (.div 3 1 2) ∧ decodeWord 0x00100093 = .ok (.addi 1 0 1) ∧
  decodeWord 0x40008193 = .ok (.addi 3 1 1024) ∧ decodeWord 0x40109193 = .ok (.slli 3 1 1) ∧
  decodeWord 0x4050D193 = .ok (.srai 3 1 5) ∧ decodeWord 0xFFC08183 = .ok (.lb 3 1 (-4)) ∧
  decodeWord 0xFE20AE23 = .ok (.sw 1 2 (-4)) ∧ decodeWord 0xFE209CE3 = .ok (.bne 1 2 (-8)) ∧
  decodeWord 0x000000E3 = .ok (.beq 0 0 2048) ∧ decodeWord 0x123452B7 = .ok (.lui 5 0x12345) ∧
  decodeWord 0x12345297 = .ok (.auipc 5 0x12345) ∧ decodeWord 0x001000EF = .ok (.jal 1 2048) ∧
  decodeWord 0xFFD302E7 = .ok (.jalr 5 6 (-3)) ∧ decodeWord 0x000080E7 = .ok (.jalr 1 1 0) ∧
  decodeWord 0x0000D0E7 = .ok (.jalr 1 1 0) ∧
  decodeWord 0x00000073 = .ok .ecall ∧ decodeWord 0x001012F3 = .ok .ebreak ∧
  decodeWord 0xC0002573 = .ok (.systemNop 0xC00) ∧ decodeWord 0x0000B183 = .ok (.loadWidth3 3 1 0) ∧
  decodeWord 0x0020F023 = .ok (.storeWidth7 1 2 0) ∧ decodeWord 0x022091B3 = .ok (.reservedMulh 3 1 2) ∧
  decodeWord 0x0020A863 = .ok (.reservedBranch2 1 2 16) ∧ decodeWord 0 = .error .unsupportedOpcode ∧
  decodeWord 0x042081B3 = .error .reservedFunct7 ∧ decodeWord 0x402091B3 = .error .reservedAlternate ∧
  decodeWord 0x2010D193 = .error .reservedShift

/-- Decoding the word of a well-formed instruction gives it back, for every instruction and every operand (R82 to R102). -/
def Obligations.DecodeOfEncode : Prop := ∀ i : Instr, i.wf = true → decodeWord (encode i) = .ok i

/-- Encoding what a word decodes to gives the word back, but for the bits R105 says the decoder does not consult, which are 0
in the canonical form: the decoder drops no other bit. -/
def Obligations.EncodeOfDecode : Prop :=
  ∀ w i, decodeWord w = .ok i → encode i = w &&& consultedBits i

/-- Every instruction the decoder answers is well-formed (R92, R94, R102). -/
def Obligations.DecodedIsWellFormed : Prop := ∀ w i, decodeWord w = .ok i → i.wf = true

/-- The decoder sends a word to an instruction only if the word belongs to that instruction's row of the opcode table (R112). -/
def Obligations.DecodedWordInRow : Prop :=
  ∀ w i, decodeWord w = .ok i → w &&& (rowOf i).mask = (rowOf i).pattern

/-- R95: the upper bits of every sign-extended immediate are copies of its sign bit, and the sign comes from `w[31]`. -/
def Obligations.ImmediateSignBits : Prop :=
  (∀ w k, 12 ≤ k → k < 32 → (sext12 (immIOf w)).getLsbD k = (immIOf w).getLsbD 11) ∧
  (∀ w k, 12 ≤ k → k < 32 → (sext12 (immSOf w)).getLsbD k = (immSOf w).getLsbD 11) ∧
  (∀ w k, 13 ≤ k → k < 32 → (sext13 (offBOf w)).getLsbD k = w.getLsbD 31) ∧
  (∀ w k, 21 ≤ k → k < 32 → (sext21 (offJOf w)).getLsbD k = w.getLsbD 31) ∧
  (∀ w, (immIOf w).getLsbD 11 = w.getLsbD 31) ∧ (∀ w, (immSOf w).getLsbD 11 = w.getLsbD 31)

/-- Where each low bit of an immediate comes from in the word (R89, R91 to R94). -/
def Obligations.ImmediateBitPlaces : Prop :=
  (∀ w k, k < 12 → (sext12 (immIOf w)).getLsbD k = w.getLsbD (20 + k)) ∧
  (∀ w k, k < 5 → (sext12 (immSOf w)).getLsbD k = w.getLsbD (7 + k)) ∧
  (∀ w k, 5 ≤ k → k < 12 → (sext12 (immSOf w)).getLsbD k = w.getLsbD (20 + k)) ∧
  (∀ w, (sext13 (offBOf w)).getLsbD 0 = false) ∧
  (∀ w k, 1 ≤ k → k < 5 → (sext13 (offBOf w)).getLsbD k = w.getLsbD (7 + k)) ∧
  (∀ w k, 5 ≤ k → k < 11 → (sext13 (offBOf w)).getLsbD k = w.getLsbD (20 + k)) ∧
  (∀ w, (sext13 (offBOf w)).getLsbD 11 = w.getLsbD 7) ∧ (∀ w, (sext13 (offBOf w)).getLsbD 12 = w.getLsbD 31) ∧
  (∀ w, upper20 (immUOf w) = w &&& 0xFFFFF000) ∧
  (∀ w, (sext21 (offJOf w)).getLsbD 0 = false) ∧
  (∀ w k, 1 ≤ k → k < 11 → (sext21 (offJOf w)).getLsbD k = w.getLsbD (20 + k)) ∧
  (∀ w, (sext21 (offJOf w)).getLsbD 11 = w.getLsbD 20) ∧
  (∀ w k, 12 ≤ k → k < 20 → (sext21 (offJOf w)).getLsbD k = w.getLsbD k) ∧
  (∀ w, (sext21 (offJOf w)).getLsbD 20 = w.getLsbD 31)

/-- R103 and R244: a word whose major opcode is none of the ten supported ones decodes to nothing, and the cycle that fetches it
takes UnsupportedOpcode, a fatal stop, with the own address and the word; a word with a supported opcode never takes it. -/
def Obligations.UnsupportedOpcodeStops : Prop :=
  (∀ w, opcodeOf w ∉ supportedOpcodes → decodeWord w = .error .unsupportedOpcode) ∧
  (∀ s w, Fetches s w → opcodeOf w ∉ supportedOpcodes →
    ∃ t, step s = .next t ∧ TakesStop s t (.unsupportedOpcode s.pc w)) ∧
  (∀ s w t pc v, Fetches s w → opcodeOf w ∈ supportedOpcodes → step s = .next t →
    t.run ≠ .stopped (.unsupportedOpcode pc v)) ∧
  (∀ pc w, (StopCause.unsupportedOpcode pc w).fatal = true)

/-- The complete list of R104: a cycle that fetches a reserved word takes ReservedEncoding with the own address and the word.
The stop is the spec's choice (D5, D6, D7; notes/assumptions/16), and so is the final pc (D16, D25; notes/assumptions/21). -/
def Obligations.ReservedWordsStop : Prop :=
  ∀ s w, Fetches s w →
    ((opcodeOf w = 0x33 ∧ funct7Of w ≠ 0x00 ∧ funct7Of w ≠ 0x01 ∧ funct7Of w ≠ 0x20) ∨
     (opcodeOf w = 0x33 ∧ funct7Of w = 0x20 ∧ funct3Of w ≠ 0 ∧ funct3Of w ≠ 5) ∨
     (opcodeOf w = 0x33 ∧ funct7Of w = 0x01 ∧ (funct3Of w = 1 ∨ funct3Of w = 2 ∨ funct3Of w = 3)) ∨
     (opcodeOf w = 0x13 ∧ funct3Of w = 5 ∧ funct7Of w ≠ 0x00 ∧ funct7Of w ≠ 0x20) ∨
     (opcodeOf w = 0x63 ∧ (funct3Of w = 2 ∨ funct3Of w = 3))) →
    step s = .next (s.stop (.reservedEncoding s.pc w))

/-- The rows RESERVED.*: their words decode to the reserved constructors, each of which takes ReservedEncoding with the own
address and the very word (R104 cases c and e, R146, R245; the stop and the final pc are the spec's choice, D5 to D7, D16, D25,
notes/assumptions/16, 21). -/
def Obligations.ReservedRowsStop : Prop :=
  ReservedRow 0x02001033 0xFE00707F (fun w => .reservedMulh (rdOf w) (rs1Of w) (rs2Of w)) ∧
  ReservedRow 0x02002033 0xFE00707F (fun w => .reservedMulhsu (rdOf w) (rs1Of w) (rs2Of w)) ∧
  ReservedRow 0x02003033 0xFE00707F (fun w => .reservedMulhu (rdOf w) (rs1Of w) (rs2Of w)) ∧
  ReservedRow 0x00002063 0x0000707F (fun w => .reservedBranch2 (rs1Of w) (rs2Of w) (offBOf w)) ∧
  ReservedRow 0x00003063 0x0000707F (fun w => .reservedBranch3 (rs1Of w) (rs2Of w) (offBOf w))

/-! ### Instructions -/

/-- R121 to R130: the encoding, the result, the next pc and the frame of the ten register-register instructions. (The funct3 values
in the rules' encodings are the spec's own supply, D24; notes/assumptions/22. So they are in R141 to R145, R151 to R159 and R172 to
R181.) -/
def Obligations.RegisterRegisterResults : Prop :=
  RegisterRow 0x00000033 .add (fun a b => a + b) ∧
  RegisterRow 0x40000033 .sub (fun a b => a - b) ∧
  RegisterRow 0x00001033 .sll (fun a b => BitVec.ofNat 32 (a.toNat * 2 ^ (b.toNat % 32))) ∧
  RegisterRow 0x00002033 .slt (fun a b => if a.toInt < b.toInt then 1 else 0) ∧
  RegisterRow 0x00003033 .sltu (fun a b => if a.toNat < b.toNat then 1 else 0) ∧
  RegisterRow 0x00004033 .xor (fun a b => a ^^^ b) ∧
  RegisterRow 0x00005033 .srl (fun a b => BitVec.ofNat 32 (a.toNat / 2 ^ (b.toNat % 32))) ∧
  RegisterRow 0x40005033 .sra (fun a b => BitVec.ofInt 32 (a.toInt / 2 ^ (b.toNat % 32))) ∧
  RegisterRow 0x00006033 .or (fun a b => a ||| b) ∧
  RegisterRow 0x00007033 .and (fun a b => a &&& b)

/-- R141, R143, R145: MUL gives the low 32 bits of the product, DIVU and REMU the natural quotient and remainder, 0 for a zero
divisor. -/
def Obligations.MultiplyAndUnsignedDivideResults : Prop :=
  RegisterRow 0x02000033 .mul (fun a b => BitVec.ofNat 32 (a.toNat * b.toNat)) ∧
  RegisterRow 0x02005033 .divu (fun a b => if b.toNat = 0 then 0 else BitVec.ofNat 32 (a.toNat / b.toNat)) ∧
  RegisterRow 0x02007033 .remu (fun a b => if b.toNat = 0 then 0 else BitVec.ofNat 32 (a.toNat % b.toNat))

/-- R142 and R144: signed division rounding toward zero and its remainder, 0 for a zero divisor, and on the overflow pair the
configured results, which with the decided configuration are 0x80000000 and 0 (D9, D27, U3; notes/assumptions/10, 23). -/
def Obligations.SignedDivideResults : Prop :=
  RowDecodes 0x02004033 0xFE00707F (fun w => .div (rdOf w) (rs1Of w) (rs2Of w)) ∧
  RowDecodes 0x02006033 0xFE00707F (fun w => .rem (rdOf w) (rs1Of w) (rs2Of w)) ∧
  (∀ s rd rs1 rs2, ∃ t, exec (.div rd rs1 rs2) s = .next t ∧
    WritesReg s t rd
      (if (s.readReg rs2).toInt = 0 then 0
       else if (s.readReg rs1).toInt = -2 ^ 31 ∧ (s.readReg rs2).toInt = -1 then s.cfg.divOverflow
       else BitVec.ofInt 32 ((s.readReg rs1).toInt.tdiv (s.readReg rs2).toInt)) (s.pc + 4)) ∧
  (∀ s rd rs1 rs2, ∃ t, exec (.rem rd rs1 rs2) s = .next t ∧
    WritesReg s t rd
      (if (s.readReg rs2).toInt = 0 then 0
       else if (s.readReg rs1).toInt = -2 ^ 31 ∧ (s.readReg rs2).toInt = -1 then s.cfg.remOverflow
       else BitVec.ofInt 32 ((s.readReg rs1).toInt.tmod (s.readReg rs2).toInt)) (s.pc + 4)) ∧
  (∀ s rd rs1 rs2 t, s.cfg.DecidedOverflow → rd ≠ 0 → s.readReg rs1 = 0x80000000 → s.readReg rs2 = 0xFFFFFFFF →
    exec (.div rd rs1 rs2) s = .next t → t.readReg rd = 0x80000000) ∧
  (∀ s rd rs1 rs2 t, s.cfg.DecidedOverflow → rd ≠ 0 → s.readReg rs1 = 0x80000000 → s.readReg rs2 = 0xFFFFFFFF →
    exec (.rem rd rs1 rs2) s = .next t → t.readReg rd = 0)

/-- R140: with a non-zero divisor, and for the signed pair outside the overflow pair, quotient times divisor plus remainder is
the dividend, modulo 2^32. -/
def Obligations.QuotientRemainderIdentity : Prop :=
  (∀ s rd rs1 rs2 t u, rd ≠ 0 → s.readReg rs2 ≠ 0 →
    ¬ (s.readReg rs1 = 0x80000000 ∧ s.readReg rs2 = 0xFFFFFFFF) →
    exec (.div rd rs1 rs2) s = .next t → exec (.rem rd rs1 rs2) s = .next u →
    t.readReg rd * s.readReg rs2 + u.readReg rd = s.readReg rs1) ∧
  (∀ s rd rs1 rs2 t u, rd ≠ 0 → s.readReg rs2 ≠ 0 →
    exec (.divu rd rs1 rs2) s = .next t → exec (.remu rd rs1 rs2) s = .next u →
    t.readReg rd * s.readReg rs2 + u.readReg rd = s.readReg rs1)

/-- R151 to R159: the encoding, the result, the next pc and the frame of the nine register-immediate instructions. -/
def Obligations.RegisterImmediateResults : Prop :=
  ImmediateRow 0x00000013 .addi (fun a b => a + b) ∧
  ImmediateRow 0x00002013 .slti (fun a b => if a.toInt < b.toInt then 1 else 0) ∧
  ImmediateRow 0x00003013 .sltiu (fun a b => if a.toNat < b.toNat then 1 else 0) ∧
  ImmediateRow 0x00004013 .xori (fun a b => a ^^^ b) ∧
  ImmediateRow 0x00006013 .ori (fun a b => a ||| b) ∧
  ImmediateRow 0x00007013 .andi (fun a b => a &&& b) ∧
  ShiftRow 0x00001013 0x0000707F .slli (fun a n => BitVec.ofNat 32 (a.toNat * 2 ^ n)) ∧
  ShiftRow 0x00005013 0xFE00707F .srli (fun a n => BitVec.ofNat 32 (a.toNat / 2 ^ n)) ∧
  ShiftRow 0x40005013 0xFE00707F .srai (fun a n => BitVec.ofInt 32 (a.toInt / 2 ^ n))

/-- R172 to R176: the encoding, the loaded value, the next pc, the frame and the bounds stop of the five loads. -/
def Obligations.LoadResults : Prop :=
  LoadRow 0x00000003 .lb 1 (fun m a => (Memory.read m a).signExtend 32) ∧
  LoadRow 0x00001003 .lh 2 (fun m a => (Memory.read m (a + 1) ++ Memory.read m a).signExtend 32) ∧
  LoadRow 0x00002003 .lw 4
    (fun m a => Memory.read m (a + 3) ++ Memory.read m (a + 2) ++ Memory.read m (a + 1) ++ Memory.read m a) ∧
  LoadRow 0x00004003 .lbu 1 (fun m a => (Memory.read m a).setWidth 32) ∧
  LoadRow 0x00005003 .lhu 2 (fun m a => (Memory.read m (a + 1) ++ Memory.read m a).setWidth 32)

/-- R177 to R179: the encoding, the bytes stored, the next pc, the frame and the bounds stop of the three stores. -/
def Obligations.StoreResults : Prop :=
  StoreRow 0x00000023 .sb 1 ∧ StoreRow 0x00001023 .sh 2 ∧ StoreRow 0x00002023 .sw 4

/-- After a store of any width, every load that lies within the stored bytes gives those bytes of x[rs2], sign-extended by LB and
LH, zero-extended by LBU and LHU (R54, R172 to R179; 95_test_vectors.md T7): after SW the word, each of its three halfwords and
its four bytes, after SH the halfword and its two bytes, after SB the byte. (A load into x0 writes nothing: `LoadResults`.) -/
def Obligations.StoreThenLoadReturnsBytes : Prop :=
  StoreThenLoad .sw .lw 0 (fun v => v) ∧
  (∀ k, k ≤ 2 → StoreThenLoad .sw .lh k (fun v => (v.extractLsb' (8 * k) 16).signExtend 32)) ∧
  (∀ k, k ≤ 2 → StoreThenLoad .sw .lhu k (fun v => (v.extractLsb' (8 * k) 16).setWidth 32)) ∧
  (∀ k, k ≤ 3 → StoreThenLoad .sw .lb k (fun v => (v.extractLsb' (8 * k) 8).signExtend 32)) ∧
  (∀ k, k ≤ 3 → StoreThenLoad .sw .lbu k (fun v => (v.extractLsb' (8 * k) 8).setWidth 32)) ∧
  StoreThenLoad .sh .lh 0 (fun v => (v.extractLsb' 0 16).signExtend 32) ∧
  StoreThenLoad .sh .lhu 0 (fun v => (v.extractLsb' 0 16).setWidth 32) ∧
  (∀ k, k ≤ 1 → StoreThenLoad .sh .lb k (fun v => (v.extractLsb' (8 * k) 8).signExtend 32)) ∧
  (∀ k, k ≤ 1 → StoreThenLoad .sh .lbu k (fun v => (v.extractLsb' (8 * k) 8).setWidth 32)) ∧
  StoreThenLoad .sb .lb 0 (fun v => (v.extractLsb' 0 8).signExtend 32) ∧
  StoreThenLoad .sb .lbu 0 (fun v => (v.extractLsb' 0 8).setWidth 32)

/-- R180 and R181: an unrecognised width is reported with the own address and the word, and is otherwise a no-op: no access, no
bounds check, no register written. That rd keeps its value is the spec's reading (D8, D21; notes/assumptions/13, 14). -/
def Obligations.UnrecognizedWidthsReport : Prop :=
  WidthRow 0x00003003 (fun w => .loadWidth3 (rdOf w) (rs1Of w) (immIOf w)) ∧
  WidthRow 0x00006003 (fun w => .loadWidth6 (rdOf w) (rs1Of w) (immIOf w)) ∧
  WidthRow 0x00007003 (fun w => .loadWidth7 (rdOf w) (rs1Of w) (immIOf w)) ∧
  WidthRow 0x00003023 (fun w => .storeWidth3 (rs1Of w) (rs2Of w) (immSOf w)) ∧
  WidthRow 0x00004023 (fun w => .storeWidth4 (rs1Of w) (rs2Of w) (immSOf w)) ∧
  WidthRow 0x00005023 (fun w => .storeWidth5 (rs1Of w) (rs2Of w) (immSOf w)) ∧
  WidthRow 0x00006023 (fun w => .storeWidth6 (rs1Of w) (rs2Of w) (immSOf w)) ∧
  WidthRow 0x00007023 (fun w => .storeWidth7 (rs1Of w) (rs2Of w) (immSOf w))

/-- R191 to R196: the encoding, the condition on exact integers, the two next pcs and the frame of the six branches. -/
def Obligations.BranchResults : Prop :=
  BranchRow 0x00000063 .beq (fun a b => a = b) ∧
  BranchRow 0x00001063 .bne (fun a b => a ≠ b) ∧
  BranchRow 0x00004063 .blt (fun a b => a.toInt < b.toInt) ∧
  BranchRow 0x00005063 .bge (fun a b => a.toInt ≥ b.toInt) ∧
  BranchRow 0x00006063 .bltu (fun a b => a.toNat < b.toNat) ∧
  BranchRow 0x00007063 .bgeu (fun a b => a.toNat ≥ b.toNat)

/-- R201 and R202: the encoding, the result, the next pc and the frame of LUI and AUIPC. -/
def Obligations.UpperImmediateResults : Prop :=
  RowDecodes 0x00000037 0x0000007F (fun w => .lui (rdOf w) (immUOf w)) ∧
  RowDecodes 0x00000017 0x0000007F (fun w => .auipc (rdOf w) (immUOf w)) ∧
  (∀ s rd imm, ∃ t, exec (.lui rd imm) s = .next t ∧ WritesReg s t rd (imm ++ 0#12) (s.pc + 4)) ∧
  (∀ s rd imm, ∃ t, exec (.auipc rd imm) s = .next t ∧ WritesReg s t rd (s.pc + (imm ++ 0#12)) (s.pc + 4))

/-- R211 and R212: the encoding, the link, the target (computed from the old x[rs1], bit 0 forced 0) and the frame of JAL and
JALR. -/
def Obligations.JumpResults : Prop :=
  RowDecodes 0x0000006F 0x0000007F (fun w => .jal (rdOf w) (offJOf w)) ∧
  RowDecodes 0x00000067 0x0000007F (fun w => .jalr (rdOf w) (rs1Of w) (immIOf w)) ∧
  (∀ s rd off, ∃ t, exec (.jal rd off) s = .next t ∧ WritesReg s t rd (s.pc + 4) (s.pc + off.signExtend 32)) ∧
  (∀ s rd rs1 imm, ∃ t, exec (.jalr rd rs1 imm) s = .next t ∧
    WritesReg s t rd (s.pc + 4) ((s.readReg rs1 + imm.signExtend 32) &&& 0xFFFFFFFE))

/-- The words of ECALL (R221), and R222: with the exit selector in x17, ECALL takes the stop Exit with all 32 bits of x10 and
changes nothing else. That pc is left too is the spec's choice (R252, D16; notes/assumptions/21). -/
def Obligations.ExitServiceStops : Prop :=
  RowDecodes 0x00000073 0xFFF0007F (fun _ => .ecall) ∧
  ∀ s, s.readReg 17 = s.cfg.sysExit → exec .ecall s = .next (s.stop (.exit (s.readReg 10)))

/-- R223: with the write-character selector in x17, ECALL appends the low 8 bits of x10 (D12, notes/assumptions/18) to the output stream
and changes nothing else but pc. -/
def Obligations.PutcharServiceWrites : Prop :=
  ∀ s, s.cfg.WF → s.readReg 17 = s.cfg.sysPutchar → ∃ t, exec .ecall s = .next t ∧ SameRegs s t ∧ SameBytes s t ∧
    t.pc = s.pc + 4 ∧ t.output = s.output ++ [(s.readReg 10).extractLsb' 0 8] ∧ t.cfg = s.cfg ∧ t.run = s.run ∧
    t.executed = s.executed ∧ t.input = s.input ∧ t.inputEnded = s.inputEnded ∧ t.diag = s.diag

/-- R224: with the read-character selector in x17, ECALL consumes the first character of the input and writes it zero-extended (D22,
notes/assumptions/18) to x10; on exhausted input it writes GETCHAR_EOF; while the host has not answered the core makes no step
(the model's fault, notes/assumptions/12). -/
def Obligations.GetcharServiceReads : Prop :=
  (∀ s b rest, s.cfg.WF → s.readReg 17 = s.cfg.sysGetchar → s.input = b :: rest →
    ∃ t, exec .ecall s = .next t ∧ t.readReg 10 = b.setWidth 32 ∧ (∀ r, r ≠ 10 → t.readReg r = s.readReg r) ∧
      t.pc = s.pc + 4 ∧ SameBytes s t ∧ t.input = rest ∧ t.inputEnded = s.inputEnded ∧ t.cfg = s.cfg ∧ t.run = s.run ∧
      t.executed = s.executed ∧ t.output = s.output ∧ t.diag = s.diag) ∧
  (∀ s, s.cfg.WF → s.readReg 17 = s.cfg.sysGetchar → s.input = [] → s.inputEnded = true →
    ∃ t, exec .ecall s = .next t ∧ WritesReg s t 10 s.cfg.getcharEof (s.pc + 4)) ∧
  (∀ s, s.cfg.WF → Waits s → exec .ecall s = .fault .waitingForInput)

/-- R225: with the debug-print selector in x17, ECALL appends one record carrying x10 to the diagnostic stream and changes nothing
else but pc (D23, notes/assumptions/20). -/
def Obligations.DebugServiceRecords : Prop :=
  ∀ s, s.cfg.WF → s.readReg 17 = s.cfg.sysDebug → ∃ t, exec .ecall s = .next t ∧ SameRegs s t ∧ SameBytes s t ∧
    t.pc = s.pc + 4 ∧ t.diag = s.diag ++ [.debugPrint (s.readReg 10)] ∧ t.cfg = s.cfg ∧ t.run = s.run ∧
    t.executed = s.executed ∧ t.output = s.output ∧ t.input = s.input ∧ t.inputEnded = s.inputEnded

/-- R226: with none of the four selectors in x17, ECALL reports UnknownSyscall with the own address and the selector and changes
nothing else but pc; x10 in particular is not written. -/
def Obligations.UnknownSelectorReports : Prop :=
  ∀ s, s.readReg 17 ≠ s.cfg.sysExit → s.readReg 17 ≠ s.cfg.sysPutchar → s.readReg 17 ≠ s.cfg.sysGetchar →
    s.readReg 17 ≠ s.cfg.sysDebug → ∃ t, exec .ecall s = .next t ∧ SameRegs s t ∧ SameBytes s t ∧ t.pc = s.pc + 4 ∧
      t.diag = s.diag ++ [.unknownSyscall s.pc (s.readReg 17)] ∧ t.cfg = s.cfg ∧ t.run = s.run ∧
      t.executed = s.executed ∧ t.output = s.output ∧ t.input = s.input ∧ t.inputEnded = s.inputEnded

/-- R227 and R242: any word with opcode 0x73 and `w[31:20]` = 1 is EBREAK, which takes the normal stop Breakpoint and changes
nothing else; there is no way to resume, and no other instruction raises it. That pc is left too is the spec's choice (R252, D16;
notes/assumptions/21); that "no way to resume" is the fault `runOver` of a step is the model's (notes/assumptions/11). -/
def Obligations.BreakpointStops : Prop :=
  RowDecodes 0x00100073 0xFFF0007F (fun _ => .ebreak) ∧
  (∀ s, exec .ebreak s = .next (s.stop .breakpoint)) ∧ StopCause.breakpoint.fatal = false ∧
  (∀ s : State, step (s.stop .breakpoint) = .fault (.runOver .breakpoint)) ∧
  (∀ i s t, s.run = .running → exec i s = .next t → t.run = .stopped .breakpoint → i = .ebreak)

/-- R228: every word with opcode 0x73 and `w[31:20]` from 0x002 to 0xFFF is a no-op: only pc advances. -/
def Obligations.SystemNopOnlyAdvances : Prop :=
  (∀ w, w &&& 0x0000007F = 0x00000073 → immIOf w ≠ 0 → immIOf w ≠ 1 → decodeWord w = .ok (.systemNop (immIOf w))) ∧
  ∀ s imm, ∃ t, exec (.systemNop imm) s = .next t ∧ OnlyPc s t (s.pc + 4)

/-! ### State and memory -/

/-- R22 and R23: x0 reads 0 and discards writes; any other register reads back what was last written to it, and a write changes no
other register. -/
def Obligations.RegisterFileReadsBack : Prop :=
  (∀ s : State, s.readReg 0 = 0) ∧ (∀ (s : State) v, s.writeReg 0 v = s) ∧
  (∀ (s : State) r v, r ≠ 0 → (s.writeReg r v).readReg r = v) ∧
  (∀ (s : State) r q v, q ≠ r → (s.writeReg r v).readReg q = s.readReg q)

/-- R53: a halfword and a word in memory are little-endian. -/
def Obligations.MemoryIsLittleEndian : Prop :=
  (∀ m a, Memory.readLE m a 2 = Memory.read m (a + 1) ++ Memory.read m a) ∧
  (∀ m a, Memory.readLE m a 4 =
    Memory.read m (a + 3) ++ Memory.read m (a + 2) ++ Memory.read m (a + 1) ++ Memory.read m a)

/-- R55 and R56: `MemRead` and `MemWrite` of 1, 2 or 4 bytes check the bounds on exact integers first; a read gives the bytes, lowest
address lowest, and changes nothing; a write changes the n bytes together and no other byte, and nothing but memory. -/
def Obligations.MemoryPrimitives : Prop :=
  ∀ (s : State) (addr : Word) (n : Nat), n = 1 ∨ n = 2 ∨ n = 4 →
    (addr.toNat + n > s.cfg.cap →
      s.memRead addr n = .error (.memoryBoundsFault addr n .load) ∧
      ∀ v, s.memWrite addr n v = .error (.memoryBoundsFault addr n .store)) ∧
    (addr.toNat + n ≤ s.cfg.cap →
      (∃ v, s.memRead addr n = .ok v ∧
        ∀ k, k < n → v.extractLsb' (8 * k) 8 = Memory.read s.mem (addr.toNat + k)) ∧
      ∀ v, ∃ m, s.memWrite addr n v = .ok { s with mem := m } ∧
        (∀ k, k < n → Memory.read m (addr.toNat + k) = v.extractLsb' (8 * k) 8) ∧
        ∀ x, x < addr.toNat ∨ addr.toNat + n ≤ x → Memory.read m x = Memory.read s.mem x)

/-- Memories in canonical form that read the same everywhere are the same data: the model's representation, not the spec's
(notes/assumptions/3). -/
def Obligations.CanonicalMemoriesAreEqual : Prop :=
  ∀ m n : Memory, Memory.wf m → Memory.wf n → (∀ a, Memory.read m a = Memory.read n a) → m = n

/-- R65: a word stored at the address the core fetches next is the word the next cycle fetches, with nothing needed in between. -/
def Obligations.StoreIsSeenByNextFetch : Prop :=
  ∀ s t rs1 rs2 imm, s.run = .running → exec (.sw rs1 rs2 imm) s = .next t → t.run = .running →
    s.effAddr rs1 imm = s.pc + 4 → (s.pc + 4).extractLsb' 0 2 = 0#2 → t.fetch = .ok (s.readReg rs2)

/-! ### The instruction cycle and the stops -/

/-- A step runs the decoded instruction: when the word at pc decodes to `i`, the step is the meaning of `i`, with one completed
cycle counted if it has not stopped (R37, R39). -/
def Obligations.StepRunsDecoded : Prop :=
  ∀ s w i, Fetches s w → decodeWord w = .ok i →
    (∀ t, exec i s = .next t → t.run = .running → step s = .next { t with executed := t.executed + 1 }) ∧
    (∀ t c, exec i s = .next t → t.run = .stopped c → step s = .next t) ∧
    (∀ f, exec i s = .fault f → step s = .fault f)

/-- R243: at the head of a cycle, before the fetch, a present ceiling that has been reached raises the normal stop StepLimit,
whatever stands at pc; registers, memory and streams stay. With no ceiling, or one not reached, no step takes that stop. -/
def Obligations.CeilingStopsBeforeFetch : Prop :=
  (∀ s n, s.run = .running → s.cfg.stepLimit = some n → s.executed = n →
    ∃ t, step s = .next t ∧ TakesStop s t .stepLimit) ∧
  (∀ s t, Ready s → step s = .next t → t.run ≠ .stopped .stepLimit) ∧ StopCause.stepLimit.fatal = false

/-- R59, R246, R247, R251: the fetch checks the bounds first, then the alignment, and otherwise gives the four bytes at pc,
little-endian; either failure stops the cycle with nothing else changed. The alignment stop is the spec's choice (D4, D15;
notes/assumptions/17, 26), and so is the final pc (D16; notes/assumptions/21). -/
def Obligations.FetchChecksInOrder : Prop :=
  (∀ s, Ready s → s.pc.toNat + 4 > s.cfg.cap → step s = .next (s.stop (.fetchBoundsFault s.pc))) ∧
  (∀ s, Ready s → s.pc.toNat + 4 ≤ s.cfg.cap → s.pc.toNat % 4 ≠ 0 → step s = .next (s.stop (.misalignedFetch s.pc))) ∧
  (∀ s : State, s.pc.toNat + 4 ≤ s.cfg.cap → s.pc.toNat % 4 = 0 →
    s.fetch = .ok (Memory.read s.mem (s.pc.toNat + 3) ++ Memory.read s.mem (s.pc.toNat + 2) ++
      Memory.read s.mem (s.pc.toNat + 1) ++ Memory.read s.mem s.pc.toNat))

/-- R254, R279: a Stopped core makes no step and a Running one always does, except while it waits inside the read-character
service. That "no step" is a fault of the model is its choice (notes/assumptions/11, 12). -/
def Obligations.RunEndsExactlyWhenStopped : Prop :=
  (∀ s c, s.run = .stopped c → step s = .fault (.runOver c)) ∧
  (∀ s, s.run = .running → (∃ t, step s = .next t) ∨ (step s = .fault .waitingForInput ∧ Waits s))

/-- Every instruction completes or takes its stop: a meaning answers a next state in every state, but for ECALL in a core that waits
for input, and never refuses (R224, R279). -/
def Obligations.EveryInstructionAnswers : Prop :=
  (∀ i s, i ≠ .ecall → ∃ t, exec i s = .next t) ∧ (∀ s, ¬ Waits s → ∃ t, exec .ecall s = .next t)

/-- R252: stops are precise. A step that stops the run changes the run status and nothing else: no register, no byte, no character,
no record, and pc at the own address (D16; the final pc is the spec's convention, notes/assumptions/21). -/
def Obligations.StopsArePrecise : Prop :=
  ∀ (s t : State) c, step s = .next t → t.run = .stopped c → t = s.stop c

/-- R241, R242, R245, R248: which instruction raises which stop of the execute step, and what the stop records. -/
def Obligations.StopsNameTheirInstruction : Prop :=
  ∀ i s t c, s.run = .running → exec i s = .next t → t.run = .stopped c → raisedBy s i c

/-- R241: ECALL with the exit selector raises the normal stop Exit with x10 as its status, and no other instruction raises it. -/
def Obligations.ExitOnlyFromExitService : Prop :=
  (∀ s, s.readReg 17 = s.cfg.sysExit → ∃ t, exec .ecall s = .next t ∧ TakesStop s t (.exit (s.readReg 10))) ∧
  (∀ i s t n, s.run = .running → exec i s = .next t → t.run = .stopped (.exit n) →
    i = .ecall ∧ s.readReg 17 = s.cfg.sysExit ∧ n = s.readReg 10) ∧
  ∀ n, (StopCause.exit n).fatal = false

/-- R250's table: code 0 while Running and each of the eight codes for its own cause and no other (the spec's own numbering,
D14; notes/assumptions/26); `exit_status` is there exactly with the cause Exit (R241); R240's fatal causes are those with codes 4 to 8. -/
def Obligations.StopCodesAndClasses : Prop :=
  ∀ s : State, (s.stopCode = 0 ↔ s.run = .running) ∧
    (s.stopCode = 1 ↔ ∃ n, s.run = .stopped (.exit n)) ∧
    (s.stopCode = 2 ↔ s.run = .stopped .breakpoint) ∧
    (s.stopCode = 3 ↔ s.run = .stopped .stepLimit) ∧
    (s.stopCode = 4 ↔ ∃ pc w, s.run = .stopped (.unsupportedOpcode pc w)) ∧
    (s.stopCode = 5 ↔ ∃ pc w, s.run = .stopped (.reservedEncoding pc w)) ∧
    (s.stopCode = 6 ↔ ∃ pc, s.run = .stopped (.fetchBoundsFault pc)) ∧
    (s.stopCode = 7 ↔ ∃ pc, s.run = .stopped (.misalignedFetch pc)) ∧
    (s.stopCode = 8 ↔ ∃ ea n kind, s.run = .stopped (.memoryBoundsFault ea n kind)) ∧
    s.stopCode ≤ 8 ∧ (∀ n, s.exitStatus = some n ↔ s.run = .stopped (.exit n)) ∧
    (s.safe = true ↔ s.stopCode ≤ 3) ∧ ∀ c, s.run = .stopped c → (c.fatal = true ↔ 4 ≤ s.stopCode)

/-! ### The whole machine -/

/-- Reset, for every launch (R24, R30, R33, R39, R270): pc at ENTRY, memory IMAGE, x0 zero, x1 to x31 REG_INIT, status Running,
nothing executed, output and diagnostic streams empty, the input stream the host's. -/
def Obligations.ResetTakesTheLaunch : Prop :=
  ∀ l : Launch, let s := State.ofLaunch l
    s.pc = l.entry ∧ (∀ a, Memory.read s.mem a = Memory.read l.image a) ∧ s.readReg 0 = 0 ∧
    (∀ r : RegIdx, r ≠ 0 → s.readReg r = l.regInit.get r) ∧ s.run = .running ∧ s.executed = 0 ∧ s.output = [] ∧
    s.diag = [] ∧ s.input = l.input ∧ s.inputEnded = l.inputEnded ∧ s.cfg = l.cfg

/-- The invariant holds right after reset for every launch the loader may deliver, and in `State.reset` (R5, R22, R50, R270,
R272). The canonical form is the model's way of writing memory down (notes/assumptions/3). -/
def Obligations.InvariantAtReset : Prop :=
  (∀ l : Launch, l.WF → (State.ofLaunch l).Inv) ∧ State.reset.Inv

/-- Every step keeps the invariant: admissible parameters, x0's slot 0, memory in canonical form and within CAP (R5, R22, R50, R57).
The canonical form is the model's (notes/assumptions/3). -/
def Obligations.StepKeepsInvariant : Prop := ∀ s t : State, s.Inv → step s = .next t → t.Inv

/-- Every instruction changes at most its destination register, and x0 never (R22, R107, R180, R220). That LOAD.WIDTH3, 6, 7
leave rd is the spec's reading (D8; notes/assumptions/13); that a system word leaves the register its rd field names is its
decision (D19; notes/assumptions/19). -/
def Obligations.OnlyDestinationChanges : Prop :=
  ∀ i s t, exec i s = .next t → t.readReg 0 = 0 ∧
    ∀ r, destination s i ≠ some r → t.readReg r = s.readReg r

/-- Every instruction changes at most the bytes it stores to: those of SB, SH, SW at the effective address, none for any other
(R56, R60, R62). -/
def Obligations.OnlyStoredBytesChange : Prop :=
  ∀ i s t, exec i s = .next t →
    (storedSpan s i = none → SameBytes s t) ∧
    ∀ ea n, storedSpan s i = some (ea, n) →
      ∀ x, x < ea.toNat ∨ ea.toNat + n ≤ x → Memory.read t.mem x = Memory.read s.mem x

/-- The host streams: only ECALL touches output and input, only ECALL and the unrecognised widths the diagnostic stream; characters
and records are only ever appended at the end, input only ever taken from the front (R34, R180, R181, R223 to R226, R249).
That a debug print is one diagnostic record is D23 (notes/assumptions/20). -/
def Obligations.StreamsOnlyGrowInOrder : Prop :=
  (∀ i s t, exec i s = .next t → i ≠ .ecall → t.output = s.output ∧ t.input = s.input ∧ t.inputEnded = s.inputEnded) ∧
  (∀ i s t, exec i s = .next t → i ≠ .ecall → namesNoWidth i = false → t.diag = s.diag) ∧
  (∀ s t, step s = .next t → (∃ o, t.output = s.output ++ o ∧ o.length ≤ 1) ∧
    (∃ c, s.input = c ++ t.input ∧ c.length ≤ 1) ∧ (∃ d, t.diag = s.diag ++ d ∧ d.length ≤ 1) ∧
    t.inputEnded = s.inputEnded)

/-- The launch parameters never change, a completed cycle is counted once and a stopped one not at all (R5, R37, R39). -/
def Obligations.StepCountsCompletedCycles : Prop :=
  ∀ s t, step s = .next t → t.cfg = s.cfg ∧ (t.run = .running → t.executed = s.executed + 1) ∧
    (t.run ≠ .running → t.executed = s.executed)

/-- R27: an instruction that completes sets pc to exactly the value its format gives; one that raises a stop does not advance pc
(D16; notes/assumptions/21). -/
def Obligations.NextPcOfEveryInstruction : Prop :=
  ∀ i s t, s.run = .running → exec i s = .next t →
    (t.run = .running → t.pc = nextPc s i) ∧ (t.run ≠ .running → t.pc = s.pc)

/-- R29: a pc with bit 0 set cannot arise from any step when the pc was even. -/
def Obligations.PcStaysEven : Prop :=
  ∀ s t, s.pc.getLsbD 0 = false → step s = .next t → t.pc.getLsbD 0 = false

/-- R34, R249: no instruction reads the output or the diagnostic stream, so what they hold cannot influence a step. -/
def Obligations.LogsCannotInfluenceTheRun : Prop :=
  ∀ (s : State) o d, SameButLogs (step s) (step { s with output := o, diag := d })

/-- R224, R280, R281: a waiting core goes on as soon as the host answers. After a character the read completes with it in x10; after
the host says that no more will come it completes with GETCHAR_EOF. -/
def Obligations.HostAnswerEndsTheWait : Prop :=
  ∀ s w, s.cfg.WF → Fetches s w → decodeWord w = .ok .ecall → Waits s →
    step s = .fault .waitingForInput ∧
    (∀ b, ∃ t, step (s.hostSupply b) = .next t ∧ t.readReg 10 = b.setWidth 32 ∧ t.input = [] ∧ t.pc = s.pc + 4 ∧
      t.run = .running) ∧
    ∃ t, step s.hostEndInput = .next t ∧ t.readReg 10 = s.cfg.getcharEof ∧ t.input = [] ∧ t.pc = s.pc + 4 ∧
      t.run = .running

/-! ### Runs: steps of the core and moves of the host, in any order (R279, R280) -/

/-- The invariant holds of every state of every run, for every launch the loader may deliver and whatever the host does between
steps (R5, R22, R50, R57, R270, R280; the canonical form of memory is the model's, notes/assumptions/3). -/
def Obligations.InvariantOfEveryRun : Prop :=
  ∀ (l : Launch) t, l.WF → Reaches (State.ofLaunch l) t → t.Inv

/-- R34: along a run the output and the diagnostic stream only grow at the end, the parameters stay as launched and the count of
completed cycles never falls. -/
def Obligations.StreamsGrowAlongEveryRun : Prop :=
  ∀ s t, Reaches s t → (∃ o, t.output = s.output ++ o) ∧ (∃ d, t.diag = s.diag ++ d) ∧ t.cfg = s.cfg ∧
    s.executed ≤ t.executed

/-- R254: a stop is terminal and the stopped core's state is final. Nothing but what the host does to its own input stream can
change afterwards, so a run that has stopped normally is safe (R240) and one that has stopped fatally is not. -/
def Obligations.StopIsTerminal : Prop :=
  (∀ s t c, s.run = .stopped c → Reaches s t → t = { s with input := t.input, inputEnded := t.inputEnded }) ∧
  (∀ (s : State) c, SafeRun (s.stop c) ↔ c.fatal = false)
end

