-- ==== Sys2Proof/Laws/Encode.lean ====
section
/-! SUPPORT. Slices of a concatenation, the fields each format's encoder puts into a word, the fields a mask fixes, and the
word a format's fields give back. -/

namespace Sys2Proof

/-! ### Slices -/

theorem extract_append_low {v w : Nat} (x : BitVec v) (y : BitVec w) (lo len : Nat) (h : lo + len ≤ w) :
    (x ++ y).extractLsb' lo len = y.extractLsb' lo len := by
  refine BitVec.eq_of_getLsbD_eq fun i hi => ?_
  have : lo + i < w := by omega
  simp [BitVec.getLsbD_append, this]

theorem extract_append_high {v w : Nat} (x : BitVec v) (y : BitVec w) (lo len : Nat) (h : w ≤ lo) :
    (x ++ y).extractLsb' lo len = x.extractLsb' (lo - w) len := by
  refine BitVec.eq_of_getLsbD_eq fun i hi => ?_
  have h1 : ¬ lo + i < w := by omega
  have h2 : lo + i - w = lo - w + i := by omega
  simp [BitVec.getLsbD_append, h1, h2]

theorem extract_whole {w : Nat} (x : BitVec w) : x.extractLsb' 0 w = x := by
  refine BitVec.eq_of_getLsbD_eq fun i hi => ?_
  simp [hi]

/-- A slice of a slice. -/
theorem extract_extract {w : Nat} (x : BitVec w) (lo len lo' len' : Nat) (h : lo' + len' ≤ len) :
    (x.extractLsb' lo len).extractLsb' lo' len' = x.extractLsb' (lo + lo') len' := by
  refine BitVec.eq_of_getLsbD_eq fun i hi => ?_
  have : lo' + i < len := by omega
  simp [this, Nat.add_assoc]

@[simp] theorem regOfField_fieldOfReg (r : RegIdx) : regOfField (fieldOfReg r) = r := by
  apply Fin.ext
  simp [regOfField, fieldOfReg]

@[simp] theorem fieldOfReg_regOfField (f : BitVec 5) : fieldOfReg (regOfField f) = f := by
  simp [regOfField, fieldOfReg]

/-- A slice of a word is what the pattern has there, when the word matches the pattern under a mask that covers the slice. -/
theorem slice_of_match {w mask pattern : Word} (h : w &&& mask = pattern) (lo len : Nat)
    (hm : mask.extractLsb' lo len = BitVec.allOnes len) : w.extractLsb' lo len = pattern.extractLsb' lo len := by
  rw [← h, BitVec.extractLsb'_and, hm, BitVec.and_allOnes]

/-! ### The fields of an encoded word -/

section fields
variable (f7 op : BitVec 7) (f3 : BitVec 3) (rd rs1 rs2 : RegIdx) (imm : BitVec 12) (shamt : BitVec 5)
  (off : BitVec 13) (imm20 : BitVec 20) (off21 : BitVec 21)

@[simp] theorem opcodeOf_encodeR : opcodeOf (encodeR f7 rs2 rs1 f3 rd op) = op := by
  simp (disch := omega) only [opcodeOf, encodeR, extract_append_low, extract_whole]
@[simp] theorem funct3Of_encodeR : funct3Of (encodeR f7 rs2 rs1 f3 rd op) = f3 := by
  simp (disch := omega) only [funct3Of, encodeR, extract_append_low, extract_append_high, extract_whole, Nat.reduceSub]
@[simp] theorem funct7Of_encodeR : funct7Of (encodeR f7 rs2 rs1 f3 rd op) = f7 := by
  simp (disch := omega) only [funct7Of, encodeR, extract_append_high, extract_whole, Nat.reduceSub]
@[simp] theorem rdOf_encodeR : rdOf (encodeR f7 rs2 rs1 f3 rd op) = rd := by
  simp (disch := omega) only [rdOf, encodeR, extract_append_low, extract_append_high, extract_whole, Nat.reduceSub,
    regOfField_fieldOfReg]
@[simp] theorem rs1Of_encodeR : rs1Of (encodeR f7 rs2 rs1 f3 rd op) = rs1 := by
  simp (disch := omega) only [rs1Of, encodeR, extract_append_low, extract_append_high, extract_whole, Nat.reduceSub,
    regOfField_fieldOfReg]
@[simp] theorem rs2Of_encodeR : rs2Of (encodeR f7 rs2 rs1 f3 rd op) = rs2 := by
  simp (disch := omega) only [rs2Of, encodeR, extract_append_low, extract_append_high, extract_whole, Nat.reduceSub,
    regOfField_fieldOfReg]

@[simp] theorem opcodeOf_encodeI : opcodeOf (encodeI imm rs1 f3 rd op) = op := by
  simp (disch := omega) only [opcodeOf, encodeI, extract_append_low, extract_whole]
@[simp] theorem funct3Of_encodeI : funct3Of (encodeI imm rs1 f3 rd op) = f3 := by
  simp (disch := omega) only [funct3Of, encodeI, extract_append_low, extract_append_high, extract_whole, Nat.reduceSub]
@[simp] theorem rdOf_encodeI : rdOf (encodeI imm rs1 f3 rd op) = rd := by
  simp (disch := omega) only [rdOf, encodeI, extract_append_low, extract_append_high, extract_whole, Nat.reduceSub,
    regOfField_fieldOfReg]
@[simp] theorem rs1Of_encodeI : rs1Of (encodeI imm rs1 f3 rd op) = rs1 := by
  simp (disch := omega) only [rs1Of, encodeI, extract_append_low, extract_append_high, extract_whole, Nat.reduceSub,
    regOfField_fieldOfReg]
@[simp] theorem immIOf_encodeI : immIOf (encodeI imm rs1 f3 rd op) = imm := by
  simp (disch := omega) only [immIOf, encodeI, extract_append_high, extract_whole, Nat.reduceSub]

@[simp] theorem opcodeOf_encodeShift : opcodeOf (encodeShift f7 shamt rs1 f3 rd) = 0x13#7 := by
  simp (disch := omega) only [opcodeOf, encodeShift, extract_append_low, extract_whole]
@[simp] theorem funct3Of_encodeShift : funct3Of (encodeShift f7 shamt rs1 f3 rd) = f3 := by
  simp (disch := omega) only [funct3Of, encodeShift, extract_append_low, extract_append_high, extract_whole, Nat.reduceSub]
@[simp] theorem funct7Of_encodeShift : funct7Of (encodeShift f7 shamt rs1 f3 rd) = f7 := by
  simp (disch := omega) only [funct7Of, encodeShift, extract_append_high, extract_whole, Nat.reduceSub]
@[simp] theorem rdOf_encodeShift : rdOf (encodeShift f7 shamt rs1 f3 rd) = rd := by
  simp (disch := omega) only [rdOf, encodeShift, extract_append_low, extract_append_high, extract_whole, Nat.reduceSub,
    regOfField_fieldOfReg]
@[simp] theorem rs1Of_encodeShift : rs1Of (encodeShift f7 shamt rs1 f3 rd) = rs1 := by
  simp (disch := omega) only [rs1Of, encodeShift, extract_append_low, extract_append_high, extract_whole, Nat.reduceSub,
    regOfField_fieldOfReg]
@[simp] theorem shamtOf_encodeShift : shamtOf (encodeShift f7 shamt rs1 f3 rd) = shamt := by
  simp (disch := omega) only [shamtOf, encodeShift, extract_append_low, extract_append_high, extract_whole, Nat.reduceSub]

@[simp] theorem opcodeOf_encodeS : opcodeOf (encodeS imm rs2 rs1 f3) = 0x23#7 := by
  simp (disch := omega) only [opcodeOf, encodeS, extract_append_low, extract_whole]
@[simp] theorem funct3Of_encodeS : funct3Of (encodeS imm rs2 rs1 f3) = f3 := by
  simp (disch := omega) only [funct3Of, encodeS, extract_append_low, extract_append_high, extract_whole, Nat.reduceSub]
@[simp] theorem rs1Of_encodeS : rs1Of (encodeS imm rs2 rs1 f3) = rs1 := by
  simp (disch := omega) only [rs1Of, encodeS, extract_append_low, extract_append_high, extract_whole, Nat.reduceSub,
    regOfField_fieldOfReg]
@[simp] theorem rs2Of_encodeS : rs2Of (encodeS imm rs2 rs1 f3) = rs2 := by
  simp (disch := omega) only [rs2Of, encodeS, extract_append_low, extract_append_high, extract_whole, Nat.reduceSub,
    regOfField_fieldOfReg]
@[simp] theorem immSOf_encodeS : immSOf (encodeS imm rs2 rs1 f3) = imm := by
  simp (disch := omega) only [immSOf, encodeS, extract_append_low, extract_append_high, extract_whole, Nat.reduceSub]
  refine BitVec.eq_of_getLsbD_eq fun i hi => ?_
  simp only [BitVec.getLsbD_append, BitVec.getLsbD_extractLsb']
  by_cases h : i < 5
  · simp [h]
  · have h1 : i - 5 < 7 := by omega
    have h2 : 5 + (i - 5) = i := by omega
    simp [h, h1, h2]

@[simp] theorem opcodeOf_encodeB : opcodeOf (encodeB off rs2 rs1 f3) = 0x63#7 := by
  simp (disch := omega) only [opcodeOf, encodeB, extract_append_low, extract_whole]
@[simp] theorem funct3Of_encodeB : funct3Of (encodeB off rs2 rs1 f3) = f3 := by
  simp (disch := omega) only [funct3Of, encodeB, extract_append_low, extract_append_high, extract_whole, Nat.reduceSub]
@[simp] theorem rs1Of_encodeB : rs1Of (encodeB off rs2 rs1 f3) = rs1 := by
  simp (disch := omega) only [rs1Of, encodeB, extract_append_low, extract_append_high, extract_whole, Nat.reduceSub,
    regOfField_fieldOfReg]
@[simp] theorem rs2Of_encodeB : rs2Of (encodeB off rs2 rs1 f3) = rs2 := by
  simp (disch := omega) only [rs2Of, encodeB, extract_append_low, extract_append_high, extract_whole, Nat.reduceSub,
    regOfField_fieldOfReg]

/-- An even B offset comes back from its word. -/
theorem offBOf_encodeB (h : evenBranchOffset off = true) : offBOf (encodeB off rs2 rs1 f3) = off := by
  simp (disch := omega) only [offBOf, encodeB, extract_append_low, extract_append_high, extract_whole, Nat.reduceSub]
  have h0 : off.getLsbD 0 = false := by simpa [evenBranchOffset] using h
  refine BitVec.eq_of_getLsbD_eq fun i hi => ?_
  interval_cases i <;> simp only [BitVec.getLsbD_append, BitVec.getLsbD_extractLsb', h0] <;> simp

@[simp] theorem opcodeOf_encodeU : opcodeOf (encodeU imm20 rd op) = op := by
  simp (disch := omega) only [opcodeOf, encodeU, extract_append_low, extract_whole]
@[simp] theorem rdOf_encodeU : rdOf (encodeU imm20 rd op) = rd := by
  simp (disch := omega) only [rdOf, encodeU, extract_append_low, extract_append_high, extract_whole, Nat.reduceSub,
    regOfField_fieldOfReg]
@[simp] theorem immUOf_encodeU : immUOf (encodeU imm20 rd op) = imm20 := by
  simp (disch := omega) only [immUOf, encodeU, extract_append_high, extract_whole, Nat.reduceSub]

@[simp] theorem opcodeOf_encodeJ : opcodeOf (encodeJ off21 rd) = 0x6F#7 := by
  simp (disch := omega) only [opcodeOf, encodeJ, extract_append_low, extract_whole]
@[simp] theorem rdOf_encodeJ : rdOf (encodeJ off21 rd) = rd := by
  simp (disch := omega) only [rdOf, encodeJ, extract_append_low, extract_append_high, extract_whole, Nat.reduceSub,
    regOfField_fieldOfReg]

/-- An even J offset comes back from its word. -/
theorem offJOf_encodeJ (h : evenJumpOffset off21 = true) : offJOf (encodeJ off21 rd) = off21 := by
  simp (disch := omega) only [offJOf, encodeJ, extract_append_low, extract_append_high, extract_whole, Nat.reduceSub]
  have h0 : off21.getLsbD 0 = false := by simpa [evenJumpOffset] using h
  refine BitVec.eq_of_getLsbD_eq fun i hi => ?_
  interval_cases i <;> simp only [BitVec.getLsbD_append, BitVec.getLsbD_extractLsb', h0] <;> simp

end fields

/-! ### The offsets the decoder reads are even -/

theorem offBOf_even (w : Word) : evenBranchOffset (offBOf w) = true := by
  simp only [evenBranchOffset, offBOf, BitVec.getLsbD_append]
  rfl

theorem offJOf_even (w : Word) : evenJumpOffset (offJOf w) = true := by
  simp only [evenJumpOffset, offJOf, BitVec.getLsbD_append]
  rfl

/-! ### A word is the concatenation of its fields -/

/-- Two neighbouring slices are one. -/
theorem extract_join {w : Nat} (x : BitVec w) (lo m n : Nat) :
    x.extractLsb' (lo + n) m ++ x.extractLsb' lo n = x.extractLsb' lo (m + n) := by
  refine BitVec.eq_of_getLsbD_eq fun i hi => ?_
  simp only [BitVec.getLsbD_append, BitVec.getLsbD_extractLsb']
  by_cases h : i < n
  · have : i < m + n := hi
    simp [h, this]
  · have h1 : i - n < m := by omega
    have h2 : lo + n + (i - n) = lo + i := by omega
    have h3 : i < m + n := hi
    simp [h, h1, h2, h3]

end Sys2Proof
end

