-- ==== Sys2Proof/Laws/Decode.lean ====
section
/-! SUPPORT. The decoder's inversion: which second level a decoded word went through, and what a word is under a row's mask when
its fields are known. -/

namespace Sys2Proof

/-- The first level of the decoder, said once: the major opcode of a decoded word and the second level that answered. -/
theorem decodeWord_cases {w : Word} {i : Instr} (h : decodeWord w = .ok i) :
    (opcodeOf w = 0x33#7 ∧ decodeRegister w = .ok i) ∨ (opcodeOf w = 0x13#7 ∧ decodeImmediate w = .ok i) ∨
    (opcodeOf w = 0x03#7 ∧ decodeLoad w = .ok i) ∨ (opcodeOf w = 0x23#7 ∧ decodeStore w = .ok i) ∨
    (opcodeOf w = 0x63#7 ∧ decodeBranch w = .ok i) ∨ (opcodeOf w = 0x37#7 ∧ i = .lui (rdOf w) (immUOf w)) ∨
    (opcodeOf w = 0x17#7 ∧ i = .auipc (rdOf w) (immUOf w)) ∨ (opcodeOf w = 0x6F#7 ∧ i = .jal (rdOf w) (offJOf w)) ∨
    (opcodeOf w = 0x67#7 ∧ i = .jalr (rdOf w) (rs1Of w) (immIOf w)) ∨
    (opcodeOf w = 0x73#7 ∧ decodeSystem w = .ok i) := by
  unfold decodeWord at h
  by_cases h1 : opcodeOf w = 0x33#7
  · exact .inl ⟨h1, by rwa [if_pos h1] at h⟩
  rw [if_neg h1] at h; right
  by_cases h2 : opcodeOf w = 0x13#7
  · exact .inl ⟨h2, by rwa [if_pos h2] at h⟩
  rw [if_neg h2] at h; right
  by_cases h3 : opcodeOf w = 0x03#7
  · exact .inl ⟨h3, by rwa [if_pos h3] at h⟩
  rw [if_neg h3] at h; right
  by_cases h4 : opcodeOf w = 0x23#7
  · exact .inl ⟨h4, by rwa [if_pos h4] at h⟩
  rw [if_neg h4] at h; right
  by_cases h5 : opcodeOf w = 0x63#7
  · exact .inl ⟨h5, by rwa [if_pos h5] at h⟩
  rw [if_neg h5] at h; right
  by_cases h6 : opcodeOf w = 0x37#7
  · exact .inl ⟨h6, by rw [if_pos h6] at h; exact (Except.ok.inj h).symm⟩
  rw [if_neg h6] at h; right
  by_cases h7 : opcodeOf w = 0x17#7
  · exact .inl ⟨h7, by rw [if_pos h7] at h; exact (Except.ok.inj h).symm⟩
  rw [if_neg h7] at h; right
  by_cases h8 : opcodeOf w = 0x6F#7
  · exact .inl ⟨h8, by rw [if_pos h8] at h; exact (Except.ok.inj h).symm⟩
  rw [if_neg h8] at h; right
  by_cases h9 : opcodeOf w = 0x67#7
  · exact .inl ⟨h9, by rw [if_pos h9] at h; exact (Except.ok.inj h).symm⟩
  rw [if_neg h9] at h; right
  by_cases h10 : opcodeOf w = 0x73#7
  · exact ⟨h10, by rwa [if_pos h10] at h⟩
  rw [if_neg h10] at h
  cases h

/-- A funct3 that is none of 0 to 6 is 7. -/
theorem funct3_eq_seven {f : BitVec 3} (h0 : f ≠ 0#3) (h1 : f ≠ 1#3) (h2 : f ≠ 2#3) (h3 : f ≠ 3#3) (h4 : f ≠ 4#3)
    (h5 : f ≠ 5#3) (h6 : f ≠ 6#3) : f = 7#3 := by
  simp only [ne_eq, ← BitVec.toNat_inj, BitVec.toNat_ofNat] at *
  have := f.isLt
  omega

/-! ### A word under a row's mask -/

/-- The mask that looks at funct7, funct3 and the opcode. -/
theorem and_mask_funct7 {w : Word} {f7 : BitVec 7} {f3 : BitVec 3} {op : BitVec 7} (ho : opcodeOf w = op)
    (h3 : funct3Of w = f3) (h7 : funct7Of w = f7) : w &&& 0xFE00707F = f7 ++ 0#10 ++ f3 ++ 0#5 ++ op := by
  subst ho h3 h7
  refine BitVec.eq_of_getLsbD_eq fun i hi => ?_
  simp only [BitVec.getLsbD_and, BitVec.getLsbD_append, opcodeOf, funct3Of, funct7Of, BitVec.getLsbD_extractLsb']
  interval_cases i <;> simp

/-- The mask that looks at funct3 and the opcode. -/
theorem and_mask_funct3 {w : Word} {f3 : BitVec 3} {op : BitVec 7} (ho : opcodeOf w = op) (h3 : funct3Of w = f3) :
    w &&& 0x0000707F = 0#17 ++ f3 ++ 0#5 ++ op := by
  subst ho h3
  refine BitVec.eq_of_getLsbD_eq fun i hi => ?_
  simp only [BitVec.getLsbD_and, BitVec.getLsbD_append, opcodeOf, funct3Of, BitVec.getLsbD_extractLsb']
  interval_cases i <;> simp

/-- The mask that looks at the opcode. -/
theorem and_mask_opcode {w : Word} {op : BitVec 7} (ho : opcodeOf w = op) : w &&& 0x0000007F = 0#25 ++ op := by
  subst ho
  refine BitVec.eq_of_getLsbD_eq fun i hi => ?_
  simp only [BitVec.getLsbD_and, BitVec.getLsbD_append, opcodeOf, BitVec.getLsbD_extractLsb']
  interval_cases i <;> simp

/-- The mask that looks at the 12-bit immediate and the opcode. -/
theorem and_mask_system {w : Word} {imm : BitVec 12} {op : BitVec 7} (ho : opcodeOf w = op) (hi : immIOf w = imm) :
    w &&& 0xFFF0007F = imm ++ 0#13 ++ op := by
  subst ho hi
  refine BitVec.eq_of_getLsbD_eq fun i hi => ?_
  simp only [BitVec.getLsbD_and, BitVec.getLsbD_append, opcodeOf, immIOf, BitVec.getLsbD_extractLsb']
  interval_cases i <;> simp

end Sys2Proof
end

