-- ==== Sys2Proof/Laws/Memory.lean ====
section
/-! SUPPORT. The laws of memory (20_memory.md R50 to R57): what a read gives after a write, byte by byte and for the
little-endian accesses, and that every memory operation keeps the canonical form and stays within capacity. -/

namespace Sys2Proof.Machine

/-! ### One byte -/

theorem Memory.read_erase (m : Memory) (a x : Nat) :
    Memory.read (Memory.erase m a) x = if x = a then Memory.unlisted else Memory.read m x := by
  induction m with
  | nil => simp [Memory.erase, Memory.read]
  | cons c m ih =>
    unfold Memory.erase at ih ⊢
    by_cases hc : c.1 = a
    · simp only [List.filter_cons, hc, bne_self_eq_false, Bool.false_eq_true, if_false, ih, Memory.read]
      by_cases hx : x = a
      · simp [hx]
      · simp [hx, Ne.symm hx]
    · simp only [List.filter_cons, bne_iff_ne, ne_eq, hc, not_false_eq_true, if_true, Memory.read, ih]
      by_cases hx : x = a
      · simp [hx, hc]
      · simp [hx]

theorem Memory.read_place (m : Memory) (a : Nat) (b : Byte) (x : Nat) (h : ∀ c ∈ m, c.1 ≠ a) :
    Memory.read (Memory.place m a b) x = if x = a then b else Memory.read m x := by
  induction m with
  | nil => simp [Memory.place, Memory.read, eq_comm]
  | cons c m ih =>
    have hc : c.1 ≠ a := h c (by simp)
    have hm : ∀ d ∈ m, d.1 ≠ a := fun d hd => h d (by simp [hd])
    unfold Memory.place
    split
    · simp [Memory.read, eq_comm]
    · simp only [Memory.read, ih hm]
      by_cases hx : x = a
      · simp [hx, hc]
      · simp [hx]

theorem Memory.erase_ne (m : Memory) (a : Nat) : ∀ c ∈ Memory.erase m a, c.1 ≠ a := by
  intro c hc
  simpa [Memory.erase] using (List.mem_filter.mp hc).2

/-- The law of memory: a written byte reads back and every other byte reads as before, in any memory whatever. -/
@[simp] theorem Memory.read_write (m : Memory) (a : Nat) (b : Byte) (x : Nat) :
    Memory.read (Memory.write m a b) x = if x = a then b else Memory.read m x := by
  unfold Memory.write
  split
  · simp [Memory.read_erase, *]
  · rw [Memory.read_place _ _ _ _ (Memory.erase_ne m a), Memory.read_erase]
    split <;> rfl

/-! ### The canonical form is kept -/

theorem Memory.erase_sublist (m : Memory) (a : Nat) : (Memory.erase m a).Sublist m := List.filter_sublist

theorem Memory.mem_place (m : Memory) (a : Nat) (b : Byte) (c : Host.Cell) :
    c ∈ Memory.place m a b ↔ c = (a, b) ∨ c ∈ m := by
  induction m with
  | nil => simp [Memory.place]
  | cons d m ih =>
    unfold Memory.place
    split
    · simp
    · simp only [List.mem_cons, ih]
      tauto

theorem Memory.place_rising (m : Memory) (a : Nat) (b : Byte) (hm : m.Pairwise (fun c d => c.1 < d.1))
    (h : ∀ c ∈ m, c.1 ≠ a) : (Memory.place m a b).Pairwise (fun c d => c.1 < d.1) := by
  induction m with
  | nil => simp [Memory.place]
  | cons c m ih =>
    obtain ⟨hcm, hm'⟩ := List.pairwise_cons.mp hm
    have hc : c.1 ≠ a := h c (by simp)
    unfold Memory.place
    split
    · rename_i hlt
      refine List.pairwise_cons.mpr ⟨?_, hm⟩
      intro d hd
      rcases List.mem_cons.mp hd with rfl | hd
      · exact hlt
      · exact lt_trans hlt (hcm d hd)
    · rename_i hlt
      refine List.pairwise_cons.mpr ⟨?_, ih hm' (fun d hd => h d (by simp [hd]))⟩
      intro d hd
      rcases (Memory.mem_place m a b d).mp hd with rfl | hd
      · exact Nat.lt_of_le_of_ne (Nat.le_of_not_lt hlt) hc
      · exact hcm d hd

/-- A write keeps the canonical form. -/
theorem Memory.write_wf (m : Memory) (a : Nat) (b : Byte) (h : Memory.wf m) : Memory.wf (Memory.write m a b) := by
  have he : Memory.wf (Memory.erase m a) :=
    ⟨h.1.sublist (Memory.erase_sublist m a), fun c hc => h.2 c ((Memory.erase_sublist m a).subset hc)⟩
  unfold Memory.write
  split
  · exact he
  · rename_i hb
    refine ⟨Memory.place_rising _ _ _ he.1 (Memory.erase_ne m a), fun c hc => ?_⟩
    rcases (Memory.mem_place _ _ _ _).mp hc with rfl | hc
    · exact hb
    · exact he.2 c hc

/-- A write below `cap` lists no address from `cap` up. -/
theorem Memory.write_within (m : Memory) (a : Nat) (b : Byte) (cap : Nat) (h : Memory.within m cap) (ha : a < cap) :
    Memory.within (Memory.write m a b) cap := by
  have he : Memory.within (Memory.erase m a) cap := fun c hc => h c ((Memory.erase_sublist m a).subset hc)
  unfold Memory.write
  split
  · exact he
  · intro c hc
    rcases (Memory.mem_place _ _ _ _).mp hc with rfl | hc
    · exact ha
    · exact he c hc

theorem Memory.writeLE_wf {width : Nat} (m : Memory) (a : Nat) (v : BitVec width) (n : Nat) (h : Memory.wf m) :
    Memory.wf (Memory.writeLE m a v n) := by
  induction n with
  | zero => exact h
  | succ n ih => exact Memory.write_wf _ _ _ ih

theorem Memory.writeLE_within {width : Nat} (m : Memory) (a : Nat) (v : BitVec width) (n cap : Nat)
    (h : Memory.within m cap) (ha : a + n ≤ cap) : Memory.within (Memory.writeLE m a v n) cap := by
  induction n with
  | zero => exact h
  | succ n ih => exact Memory.write_within _ _ _ _ (ih (by omega)) (by omega)

/-- `State.reset`'s memory has the canonical form. -/
theorem reset_mem_wf : Memory.wf State.reset.mem := by decide

/-! ### Little-endian accesses (R53 to R56) -/

/-- What every byte reads as after a store of `n` bytes at `a`. -/
theorem Memory.read_writeLE {width : Nat} (m : Memory) (a : Nat) (v : BitVec width) (n x : Nat) :
    Memory.read (Memory.writeLE m a v n) x =
      if a ≤ x ∧ x < a + n then v.extractLsb' (8 * (x - a)) 8 else Memory.read m x := by
  induction n with
  | zero =>
    have : ¬ (a ≤ x ∧ x < a + 0) := by omega
    simp only [this, if_false]; rfl
  | succ n ih =>
    simp only [Memory.writeLE, Memory.read_write, ih]
    by_cases hx : x = a + n
    · subst hx; simp
    · have : (a ≤ x ∧ x < a + n) ↔ (a ≤ x ∧ x < a + (n + 1)) := by omega
      simp only [hx, if_false, this]

/-- Bit `i` of a little-endian read is bit `i % 8` of the byte at `a + i / 8`. -/
theorem Memory.getLsbD_readLE (m : Memory) (a n i : Nat) (h : i < 8 * n) :
    (Memory.readLE m a n).getLsbD i = (Memory.read m (a + i / 8)).getLsbD (i % 8) := by
  induction n generalizing a i with
  | zero => omega
  | succ n ih =>
    change (Memory.readLE m (a + 1) n ++ Memory.read m a).getLsbD i = _
    rw [BitVec.getLsbD_append]
    by_cases hi : i < 8
    · have h0 : i / 8 = 0 := by omega
      have h1 : i % 8 = i := by omega
      simp [hi, h0, h1]
    · have h2 : a + 1 + (i - 8) / 8 = a + i / 8 := by omega
      have h3 : (i - 8) % 8 = i % 8 := by omega
      simp only [hi, if_false, ih (a + 1) (i - 8) (by omega), h2, h3]

/-- Byte `k` of a little-endian read is the byte at `a + k`. -/
theorem Memory.byte_of_readLE (m : Memory) (a n k : Nat) (h : k < n) :
    (Memory.readLE m a n).extractLsb' (8 * k) 8 = Memory.read m (a + k) := by
  refine BitVec.eq_of_getLsbD_eq fun i hi => ?_
  rw [BitVec.getLsbD_extractLsb', Memory.getLsbD_readLE _ _ _ _ (by omega)]
  have h1 : (8 * k + i) / 8 = k := by omega
  have h2 : (8 * k + i) % 8 = i := by omega
  simp [hi, h1, h2]

/-- Two reads give the same value when the bytes they cover read the same. -/
theorem Memory.readLE_congr (m m' : Memory) (a a' n : Nat)
    (h : ∀ k, k < n → Memory.read m (a + k) = Memory.read m' (a' + k)) : Memory.readLE m a n = Memory.readLE m' a' n := by
  refine BitVec.eq_of_getLsbD_eq fun i hi => ?_
  rw [Memory.getLsbD_readLE _ _ _ _ hi, Memory.getLsbD_readLE _ _ _ _ hi, h (i / 8) (by omega)]

/-- A read of `j` bytes inside the `n` bytes just stored at `a`, from `k` above `a`, gives those bytes of the value (R54). -/
theorem Memory.readLE_writeLE {width : Nat} (m : Memory) (a : Nat) (v : BitVec width) (n k j : Nat) (h : k + j ≤ n) :
    Memory.readLE (Memory.writeLE m a v n) (a + k) j = v.extractLsb' (8 * k) (8 * j) := by
  refine BitVec.eq_of_getLsbD_eq fun i hi => ?_
  have hin : a ≤ a + k + i / 8 ∧ a + k + i / 8 < a + n := by omega
  have hoff : 8 * (a + k + i / 8 - a) + i % 8 = 8 * k + i := by omega
  have hmod : i % 8 < 8 := by omega
  rw [Memory.getLsbD_readLE _ _ _ _ hi, Memory.read_writeLE, if_pos hin, BitVec.getLsbD_extractLsb',
    BitVec.getLsbD_extractLsb', hoff]
  simp [hi, hmod]

end Sys2Proof.Machine
end

