-- ==== Sys2Proof/Laws/State.lean ====
section
/-! SUPPORT. One lemma per field of State and update of it, true by rfl, so that no proof unfolds a record update; and what a
register reads after each update. -/

namespace Sys2Proof.Machine

/-! ### `State.writeReg` -/

@[simp] theorem State.writeReg_cfg (s : State) (r : RegIdx) (v : Word) : (s.writeReg r v).cfg = s.cfg := rfl
@[simp] theorem State.writeReg_regs (s : State) (r : RegIdx) (v : Word) : (s.writeReg r v).regs = if r = 0 then s.regs else s.regs.set r.val v r.isLt := rfl
@[simp] theorem State.writeReg_pc (s : State) (r : RegIdx) (v : Word) : (s.writeReg r v).pc = s.pc := rfl
@[simp] theorem State.writeReg_mem (s : State) (r : RegIdx) (v : Word) : (s.writeReg r v).mem = s.mem := rfl
@[simp] theorem State.writeReg_run (s : State) (r : RegIdx) (v : Word) : (s.writeReg r v).run = s.run := rfl
@[simp] theorem State.writeReg_executed (s : State) (r : RegIdx) (v : Word) : (s.writeReg r v).executed = s.executed := rfl
@[simp] theorem State.writeReg_output (s : State) (r : RegIdx) (v : Word) : (s.writeReg r v).output = s.output := rfl
@[simp] theorem State.writeReg_input (s : State) (r : RegIdx) (v : Word) : (s.writeReg r v).input = s.input := rfl
@[simp] theorem State.writeReg_inputEnded (s : State) (r : RegIdx) (v : Word) : (s.writeReg r v).inputEnded = s.inputEnded := rfl
@[simp] theorem State.writeReg_diag (s : State) (r : RegIdx) (v : Word) : (s.writeReg r v).diag = s.diag := rfl

/-! ### `State.setPc` -/

@[simp] theorem State.setPc_cfg (s : State) (t : Word) : (s.setPc t).cfg = s.cfg := rfl
@[simp] theorem State.setPc_regs (s : State) (t : Word) : (s.setPc t).regs = s.regs := rfl
@[simp] theorem State.setPc_pc (s : State) (t : Word) : (s.setPc t).pc = t := rfl
@[simp] theorem State.setPc_mem (s : State) (t : Word) : (s.setPc t).mem = s.mem := rfl
@[simp] theorem State.setPc_run (s : State) (t : Word) : (s.setPc t).run = s.run := rfl
@[simp] theorem State.setPc_executed (s : State) (t : Word) : (s.setPc t).executed = s.executed := rfl
@[simp] theorem State.setPc_output (s : State) (t : Word) : (s.setPc t).output = s.output := rfl
@[simp] theorem State.setPc_input (s : State) (t : Word) : (s.setPc t).input = s.input := rfl
@[simp] theorem State.setPc_inputEnded (s : State) (t : Word) : (s.setPc t).inputEnded = s.inputEnded := rfl
@[simp] theorem State.setPc_diag (s : State) (t : Word) : (s.setPc t).diag = s.diag := rfl
@[simp] theorem State.setPc_readReg (s : State) (t : Word) (q : RegIdx) : (s.setPc t).readReg q = s.readReg q := rfl

/-! ### `State.advance` -/

@[simp] theorem State.advance_cfg (s : State) : s.advance.cfg = s.cfg := rfl
@[simp] theorem State.advance_regs (s : State) : s.advance.regs = s.regs := rfl
@[simp] theorem State.advance_pc (s : State) : s.advance.pc = s.pc + 4 := rfl
@[simp] theorem State.advance_mem (s : State) : s.advance.mem = s.mem := rfl
@[simp] theorem State.advance_run (s : State) : s.advance.run = s.run := rfl
@[simp] theorem State.advance_executed (s : State) : s.advance.executed = s.executed := rfl
@[simp] theorem State.advance_output (s : State) : s.advance.output = s.output := rfl
@[simp] theorem State.advance_input (s : State) : s.advance.input = s.input := rfl
@[simp] theorem State.advance_inputEnded (s : State) : s.advance.inputEnded = s.inputEnded := rfl
@[simp] theorem State.advance_diag (s : State) : s.advance.diag = s.diag := rfl
@[simp] theorem State.advance_readReg (s : State) (q : RegIdx) : s.advance.readReg q = s.readReg q := rfl

/-! ### `State.setMem` -/

@[simp] theorem State.setMem_cfg (s : State) (m : Memory) : (s.setMem m).cfg = s.cfg := rfl
@[simp] theorem State.setMem_regs (s : State) (m : Memory) : (s.setMem m).regs = s.regs := rfl
@[simp] theorem State.setMem_pc (s : State) (m : Memory) : (s.setMem m).pc = s.pc := rfl
@[simp] theorem State.setMem_mem (s : State) (m : Memory) : (s.setMem m).mem = m := rfl
@[simp] theorem State.setMem_run (s : State) (m : Memory) : (s.setMem m).run = s.run := rfl
@[simp] theorem State.setMem_executed (s : State) (m : Memory) : (s.setMem m).executed = s.executed := rfl
@[simp] theorem State.setMem_output (s : State) (m : Memory) : (s.setMem m).output = s.output := rfl
@[simp] theorem State.setMem_input (s : State) (m : Memory) : (s.setMem m).input = s.input := rfl
@[simp] theorem State.setMem_inputEnded (s : State) (m : Memory) : (s.setMem m).inputEnded = s.inputEnded := rfl
@[simp] theorem State.setMem_diag (s : State) (m : Memory) : (s.setMem m).diag = s.diag := rfl
@[simp] theorem State.setMem_readReg (s : State) (m : Memory) (q : RegIdx) : (s.setMem m).readReg q = s.readReg q := rfl

/-! ### `State.stop` -/

@[simp] theorem State.stop_cfg (s : State) (c : StopCause) : (s.stop c).cfg = s.cfg := rfl
@[simp] theorem State.stop_regs (s : State) (c : StopCause) : (s.stop c).regs = s.regs := rfl
@[simp] theorem State.stop_pc (s : State) (c : StopCause) : (s.stop c).pc = s.pc := rfl
@[simp] theorem State.stop_mem (s : State) (c : StopCause) : (s.stop c).mem = s.mem := rfl
@[simp] theorem State.stop_run (s : State) (c : StopCause) : (s.stop c).run = .stopped c := rfl
@[simp] theorem State.stop_executed (s : State) (c : StopCause) : (s.stop c).executed = s.executed := rfl
@[simp] theorem State.stop_output (s : State) (c : StopCause) : (s.stop c).output = s.output := rfl
@[simp] theorem State.stop_input (s : State) (c : StopCause) : (s.stop c).input = s.input := rfl
@[simp] theorem State.stop_inputEnded (s : State) (c : StopCause) : (s.stop c).inputEnded = s.inputEnded := rfl
@[simp] theorem State.stop_diag (s : State) (c : StopCause) : (s.stop c).diag = s.diag := rfl
@[simp] theorem State.stop_readReg (s : State) (c : StopCause) (q : RegIdx) : (s.stop c).readReg q = s.readReg q := rfl

/-! ### `State.report` -/

@[simp] theorem State.report_cfg (s : State) (d : DiagRecord) : (s.report d).cfg = s.cfg := rfl
@[simp] theorem State.report_regs (s : State) (d : DiagRecord) : (s.report d).regs = s.regs := rfl
@[simp] theorem State.report_pc (s : State) (d : DiagRecord) : (s.report d).pc = s.pc := rfl
@[simp] theorem State.report_mem (s : State) (d : DiagRecord) : (s.report d).mem = s.mem := rfl
@[simp] theorem State.report_run (s : State) (d : DiagRecord) : (s.report d).run = s.run := rfl
@[simp] theorem State.report_executed (s : State) (d : DiagRecord) : (s.report d).executed = s.executed := rfl
@[simp] theorem State.report_output (s : State) (d : DiagRecord) : (s.report d).output = s.output := rfl
@[simp] theorem State.report_input (s : State) (d : DiagRecord) : (s.report d).input = s.input := rfl
@[simp] theorem State.report_inputEnded (s : State) (d : DiagRecord) : (s.report d).inputEnded = s.inputEnded := rfl
@[simp] theorem State.report_diag (s : State) (d : DiagRecord) : (s.report d).diag = s.diag ++ [d] := rfl
@[simp] theorem State.report_readReg (s : State) (d : DiagRecord) (q : RegIdx) : (s.report d).readReg q = s.readReg q := rfl

/-! ### `State.putChar` -/

@[simp] theorem State.putChar_cfg (s : State) (b : Byte) : (s.putChar b).cfg = s.cfg := rfl
@[simp] theorem State.putChar_regs (s : State) (b : Byte) : (s.putChar b).regs = s.regs := rfl
@[simp] theorem State.putChar_pc (s : State) (b : Byte) : (s.putChar b).pc = s.pc := rfl
@[simp] theorem State.putChar_mem (s : State) (b : Byte) : (s.putChar b).mem = s.mem := rfl
@[simp] theorem State.putChar_run (s : State) (b : Byte) : (s.putChar b).run = s.run := rfl
@[simp] theorem State.putChar_executed (s : State) (b : Byte) : (s.putChar b).executed = s.executed := rfl
@[simp] theorem State.putChar_output (s : State) (b : Byte) : (s.putChar b).output = s.output ++ [b] := rfl
@[simp] theorem State.putChar_input (s : State) (b : Byte) : (s.putChar b).input = s.input := rfl
@[simp] theorem State.putChar_inputEnded (s : State) (b : Byte) : (s.putChar b).inputEnded = s.inputEnded := rfl
@[simp] theorem State.putChar_diag (s : State) (b : Byte) : (s.putChar b).diag = s.diag := rfl
@[simp] theorem State.putChar_readReg (s : State) (b : Byte) (q : RegIdx) : (s.putChar b).readReg q = s.readReg q := rfl

/-! ### `State.setInput` -/

@[simp] theorem State.setInput_cfg (s : State) (l : List Byte) : (s.setInput l).cfg = s.cfg := rfl
@[simp] theorem State.setInput_regs (s : State) (l : List Byte) : (s.setInput l).regs = s.regs := rfl
@[simp] theorem State.setInput_pc (s : State) (l : List Byte) : (s.setInput l).pc = s.pc := rfl
@[simp] theorem State.setInput_mem (s : State) (l : List Byte) : (s.setInput l).mem = s.mem := rfl
@[simp] theorem State.setInput_run (s : State) (l : List Byte) : (s.setInput l).run = s.run := rfl
@[simp] theorem State.setInput_executed (s : State) (l : List Byte) : (s.setInput l).executed = s.executed := rfl
@[simp] theorem State.setInput_output (s : State) (l : List Byte) : (s.setInput l).output = s.output := rfl
@[simp] theorem State.setInput_input (s : State) (l : List Byte) : (s.setInput l).input = l := rfl
@[simp] theorem State.setInput_inputEnded (s : State) (l : List Byte) : (s.setInput l).inputEnded = s.inputEnded := rfl
@[simp] theorem State.setInput_diag (s : State) (l : List Byte) : (s.setInput l).diag = s.diag := rfl
@[simp] theorem State.setInput_readReg (s : State) (l : List Byte) (q : RegIdx) : (s.setInput l).readReg q = s.readReg q := rfl

/-! ### `State.hostSupply` -/

@[simp] theorem State.hostSupply_cfg (s : State) (b : Byte) : (s.hostSupply b).cfg = s.cfg := rfl
@[simp] theorem State.hostSupply_regs (s : State) (b : Byte) : (s.hostSupply b).regs = s.regs := rfl
@[simp] theorem State.hostSupply_pc (s : State) (b : Byte) : (s.hostSupply b).pc = s.pc := rfl
@[simp] theorem State.hostSupply_mem (s : State) (b : Byte) : (s.hostSupply b).mem = s.mem := rfl
@[simp] theorem State.hostSupply_run (s : State) (b : Byte) : (s.hostSupply b).run = s.run := rfl
@[simp] theorem State.hostSupply_executed (s : State) (b : Byte) : (s.hostSupply b).executed = s.executed := rfl
@[simp] theorem State.hostSupply_output (s : State) (b : Byte) : (s.hostSupply b).output = s.output := rfl
@[simp] theorem State.hostSupply_input (s : State) (b : Byte) : (s.hostSupply b).input = if s.inputEnded then s.input else s.input ++ [b] := rfl
@[simp] theorem State.hostSupply_inputEnded (s : State) (b : Byte) : (s.hostSupply b).inputEnded = s.inputEnded := rfl
@[simp] theorem State.hostSupply_diag (s : State) (b : Byte) : (s.hostSupply b).diag = s.diag := rfl
@[simp] theorem State.hostSupply_readReg (s : State) (b : Byte) (q : RegIdx) : (s.hostSupply b).readReg q = s.readReg q := rfl

/-! ### `State.hostEndInput` -/

@[simp] theorem State.hostEndInput_cfg (s : State) : s.hostEndInput.cfg = s.cfg := rfl
@[simp] theorem State.hostEndInput_regs (s : State) : s.hostEndInput.regs = s.regs := rfl
@[simp] theorem State.hostEndInput_pc (s : State) : s.hostEndInput.pc = s.pc := rfl
@[simp] theorem State.hostEndInput_mem (s : State) : s.hostEndInput.mem = s.mem := rfl
@[simp] theorem State.hostEndInput_run (s : State) : s.hostEndInput.run = s.run := rfl
@[simp] theorem State.hostEndInput_executed (s : State) : s.hostEndInput.executed = s.executed := rfl
@[simp] theorem State.hostEndInput_output (s : State) : s.hostEndInput.output = s.output := rfl
@[simp] theorem State.hostEndInput_input (s : State) : s.hostEndInput.input = s.input := rfl
@[simp] theorem State.hostEndInput_inputEnded (s : State) : s.hostEndInput.inputEnded = true := rfl
@[simp] theorem State.hostEndInput_diag (s : State) : s.hostEndInput.diag = s.diag := rfl
@[simp] theorem State.hostEndInput_readReg (s : State) (q : RegIdx) : s.hostEndInput.readReg q = s.readReg q := rfl

/-! ### `State.countCycle` -/

@[simp] theorem State.countCycle_cfg (s : State) : s.countCycle.cfg = s.cfg := rfl
@[simp] theorem State.countCycle_regs (s : State) : s.countCycle.regs = s.regs := rfl
@[simp] theorem State.countCycle_pc (s : State) : s.countCycle.pc = s.pc := rfl
@[simp] theorem State.countCycle_mem (s : State) : s.countCycle.mem = s.mem := rfl
@[simp] theorem State.countCycle_run (s : State) : s.countCycle.run = s.run := rfl
@[simp] theorem State.countCycle_executed (s : State) : s.countCycle.executed = if s.run = .running then s.executed + 1 else s.executed := rfl
@[simp] theorem State.countCycle_output (s : State) : s.countCycle.output = s.output := rfl
@[simp] theorem State.countCycle_input (s : State) : s.countCycle.input = s.input := rfl
@[simp] theorem State.countCycle_inputEnded (s : State) : s.countCycle.inputEnded = s.inputEnded := rfl
@[simp] theorem State.countCycle_diag (s : State) : s.countCycle.diag = s.diag := rfl
@[simp] theorem State.countCycle_readReg (s : State) (q : RegIdx) : s.countCycle.readReg q = s.readReg q := rfl

/-! ### Registers after a register write (R22, R23) -/

@[simp] theorem State.readReg_zero (s : State) : s.readReg 0 = 0 := rfl

theorem State.writeReg_zero (s : State) (v : Word) : s.writeReg 0 v = s := rfl

theorem State.writeReg_readReg (s : State) (r q : RegIdx) (v : Word) :
    (s.writeReg r v).readReg q = if q = r ∧ q ≠ 0 then v else s.readReg q := by
  unfold State.readReg
  by_cases hq : q = 0
  · simp [hq]
  by_cases hr : r = 0
  · subst hr; simp [hq]
  by_cases hqr : q = r
  · subst hqr; simp [hq, Vector.get_eq_getElem]
  · have : r.val ≠ q.val := fun h => hqr (Fin.ext h.symm)
    simp [hq, hr, hqr, Vector.get_eq_getElem, this]

/-- The register just written reads back, unless it is x0. -/
theorem State.writeReg_readReg_self (s : State) (r : RegIdx) (v : Word) (h : r ≠ 0) : (s.writeReg r v).readReg r = v := by
  simp [State.writeReg_readReg, h]

/-- Every other register reads as before. -/
theorem State.writeReg_readReg_other (s : State) (r q : RegIdx) (v : Word) (h : q ≠ r) :
    (s.writeReg r v).readReg q = s.readReg q := by
  simp [State.writeReg_readReg, h]

end Sys2Proof.Machine
end

