-- ==== Sys2Proof/Laws/Ops.lean ====
section
/-! SUPPORT. For each shared operation one lemma that says everything it can do; later proofs cite these and unfold nothing. -/

namespace Sys2Proof.Machine

/-! ### Accesses (R55 to R57) -/

theorem State.inBounds_iff (s : State) (addr : Word) (n : Nat) :
    s.inBounds addr n = true ↔ addr.toNat + n ≤ s.cfg.cap := by simp [State.inBounds]

/-- `MemRead` in bounds. -/
theorem State.memRead_ok (s : State) (addr : Word) (n : Nat) (h : addr.toNat + n ≤ s.cfg.cap) :
    s.memRead addr n = .ok (Memory.readLE s.mem addr.toNat n) := by simp [State.memRead, State.inBounds, h]

/-- `MemRead` out of bounds. -/
theorem State.memRead_error (s : State) (addr : Word) (n : Nat) (h : s.cfg.cap < addr.toNat + n) :
    s.memRead addr n = .error (.memoryBoundsFault addr n .load) := by
  simp [State.memRead, State.inBounds, Nat.not_le.mpr h]

/-- `MemWrite` in bounds. -/
theorem State.memWrite_ok (s : State) (addr : Word) (n : Nat) (v : BitVec (8 * n))
    (h : addr.toNat + n ≤ s.cfg.cap) :
    s.memWrite addr n v = .ok (s.setMem (Memory.writeLE s.mem addr.toNat v n)) := by
  simp [State.memWrite, State.inBounds, h]

/-- `MemWrite` out of bounds. -/
theorem State.memWrite_error (s : State) (addr : Word) (n : Nat) (v : BitVec (8 * n))
    (h : s.cfg.cap < addr.toNat + n) : s.memWrite addr n v = .error (.memoryBoundsFault addr n .store) := by
  simp [State.memWrite, State.inBounds, Nat.not_le.mpr h]

/-! ### What the families' shared operations answer -/

@[simp] theorem raise_eq (c : StopCause) (s : State) : raise c s = .next (s.stop c) := rfl

@[simp] theorem finish_eq (rd : RegIdx) (v : Word) (s : State) : finish rd v s = .next (s.writeReg rd v).advance := rfl

@[simp] theorem proceed_eq (s : State) : proceed s = .next s.advance := rfl

theorem registerOp_eq (op : Word → Word → Word) (rd rs1 rs2 : RegIdx) (s : State) :
    registerOp op rd rs1 rs2 s = .next (s.writeReg rd (op (s.readReg rs1) (s.readReg rs2))).advance := rfl

theorem immediateOp_eq (op : Word → Word → Word) (rd rs1 : RegIdx) (right : Word) (s : State) :
    immediateOp op rd rs1 right s = .next (s.writeReg rd (op (s.readReg rs1) right)).advance := rfl

theorem jumpOp_eq (rd : RegIdx) (target : Word) (s : State) :
    jumpOp rd target s = .next ((s.writeReg rd (s.pc + 4)).setPc target) := rfl

theorem branchOp_eq (taken : Bool) (off : BitVec 13) (s : State) :
    branchOp taken off s = .next (s.setPc (if taken then s.branchTarget off else s.pc + 4)) := by
  cases taken <;> rfl

/-- A load: in bounds it writes the extended value and falls through, out of bounds it stops. -/
theorem loadOp_eq (n : Nat) (ext : BitVec (8 * n) → Word) (rd rs1 : RegIdx) (imm : BitVec 12) (s : State) :
    loadOp n ext rd rs1 imm s =
      if (s.effAddr rs1 imm).toNat + n ≤ s.cfg.cap then
        .next (s.writeReg rd (ext (Memory.readLE s.mem (s.effAddr rs1 imm).toNat n))).advance
      else .next (s.stop (.memoryBoundsFault (s.effAddr rs1 imm) n .load)) := by
  unfold loadOp
  split_ifs with h
  · rw [State.memRead_ok _ _ _ h]; rfl
  · rw [State.memRead_error _ _ _ (by omega)]; rfl

/-- A store: in bounds it writes the bytes and falls through, out of bounds it stops. -/
theorem storeOp_eq (n : Nat) (rs1 rs2 : RegIdx) (imm : BitVec 12) (s : State) :
    storeOp n rs1 rs2 imm s =
      if (s.effAddr rs1 imm).toNat + n ≤ s.cfg.cap then
        .next (s.setMem (Memory.writeLE s.mem (s.effAddr rs1 imm).toNat (truncated n (s.readReg rs2)) n)).advance
      else .next (s.stop (.memoryBoundsFault (s.effAddr rs1 imm) n .store)) := by
  unfold storeOp
  split_ifs with h
  · rw [State.memWrite_ok _ _ _ _ h]; rfl
  · rw [State.memWrite_error _ _ _ _ (by omega)]; rfl

theorem unrecognizedWidth_eq (i : Instr) (s : State) :
    unrecognizedWidth i s = .next (s.report (.unrecognizedWidth s.pc (encode i))).advance := rfl

theorem reservedWord_eq (i : Instr) (s : State) :
    reservedWord i s = .next (s.stop (.reservedEncoding s.pc (encode i))) := rfl

/-- The byte a store of `n` bytes writes at offset `k < n` is byte `k` of the register. -/
theorem byte_of_truncated (n k : Nat) (v : Word) (h : k < n) :
    (truncated n v).extractLsb' (8 * k) 8 = v.extractLsb' (8 * k) 8 := by
  refine BitVec.eq_of_getLsbD_eq fun i hi => ?_
  simp only [truncated, BitVec.getLsbD_extractLsb', BitVec.getLsbD_setWidth]
  have : 8 * k + i < 8 * n := by omega
  simp [hi, this]

/-- The `j` bytes a store of `n` bytes writes from offset `k` on, `k + j ≤ n`, are those of the register. -/
theorem bytes_of_truncated (n k j : Nat) (v : Word) (h : k + j ≤ n) :
    (truncated n v).extractLsb' (8 * k) (8 * j) = v.extractLsb' (8 * k) (8 * j) := by
  refine BitVec.eq_of_getLsbD_eq fun i hi => ?_
  have : 8 * k + i < 8 * n := by omega
  simp [truncated, hi, this]

/-! ### The host's answers (R224) -/

theorem State.getChar_cons (s : State) (b : Byte) (rest : List Byte) (h : s.input = b :: rest) :
    s.getChar = .char b (s.setInput rest) := by simp [State.getChar, h]

theorem State.getChar_nil (s : State) (h : s.input = []) :
    s.getChar = if s.inputEnded then .exhausted else .notYet := by simp [State.getChar, h]

/-- ECALL, said once: which of its six outcomes it has, with the condition of each (R221 to R226). -/
theorem execEcall_cases (s : State) :
    (s.readReg a7 = s.cfg.sysExit ∧ execEcall s = .next (s.stop (.exit (s.readReg a0)))) ∨
    (execEcall s = .next (s.putChar ((s.readReg a0).setWidth 8)).advance) ∨
    (s.readReg a7 = s.cfg.sysGetchar ∧ ∃ b rest, s.input = b :: rest ∧
      execEcall s = .next (((s.setInput rest).writeReg a0 (b.setWidth 32)).advance)) ∨
    (s.readReg a7 = s.cfg.sysGetchar ∧ s.input = [] ∧ s.inputEnded = true ∧
      execEcall s = .next (s.writeReg a0 s.cfg.getcharEof).advance) ∨
    (s.readReg a7 = s.cfg.sysGetchar ∧ s.input = [] ∧ s.inputEnded = false ∧
      execEcall s = .fault .waitingForInput) ∨
    (∃ d, execEcall s = .next (s.report d).advance) := by
  unfold execEcall
  split_ifs with h1 h2 h3 h4
  · exact .inl ⟨h1, rfl⟩
  · exact .inr (.inl rfl)
  · refine .inr (.inr ?_)
    unfold getcharService
    cases hi : s.input with
    | cons b rest => exact .inl ⟨h3, b, rest, rfl, by rw [State.getChar_cons s b rest hi]; rfl⟩
    | nil =>
      cases he : s.inputEnded with
      | true => exact .inr (.inl ⟨h3, rfl, rfl, by rw [State.getChar_nil s hi, he]; rfl⟩)
      | false => exact .inr (.inr (.inl ⟨h3, rfl, rfl, by rw [State.getChar_nil s hi, he]; rfl⟩))
  · exact .inr (.inr (.inr (.inr (.inr ⟨_, rfl⟩))))
  · exact .inr (.inr (.inr (.inr (.inr ⟨_, rfl⟩))))

/-! ### What a meaning can do to a state, whichever instruction it is -/

/-- The shapes of a next state that the 58 meanings answer. Every whole-machine statement is a case analysis over these. -/
inductive Effect (s : State) : State → Prop
  | stops (c : StopCause) : Effect s (s.stop c)
  | writes (rd : RegIdx) (v : Word) : Effect s (s.writeReg rd v).advance
  | jumps (rd : RegIdx) (v target : Word) : Effect s ((s.writeReg rd v).setPc target)
  | branches (target : Word) : Effect s (s.setPc target)
  | falls : Effect s s.advance
  | stores (a n : Nat) (v : BitVec (8 * n)) (h : a + n ≤ s.cfg.cap) :
      Effect s (s.setMem (Memory.writeLE s.mem a v n)).advance
  | reports (d : DiagRecord) : Effect s (s.report d).advance
  | sends (b : Byte) : Effect s (s.putChar b).advance
  | receives (b : Byte) (rest : List Byte) (h : s.input = b :: rest) :
      Effect s ((s.setInput rest).writeReg a0 (b.setWidth 32)).advance

theorem loadOp_effect {n : Nat} {ext : BitVec (8 * n) → Word} {rd rs1 : RegIdx} {imm : BitVec 12} {s t : State}
    (h : loadOp n ext rd rs1 imm s = .next t) : Effect s t := by
  rw [loadOp_eq] at h
  split_ifs at h <;> obtain rfl := Host.Outcome.next.inj h
  · exact .writes _ _
  · exact .stops _

theorem storeOp_effect {n : Nat} {rs1 rs2 : RegIdx} {imm : BitVec 12} {s t : State}
    (h : storeOp n rs1 rs2 imm s = .next t) : Effect s t := by
  rw [storeOp_eq] at h
  split_ifs at h with hb <;> obtain rfl := Host.Outcome.next.inj h
  · exact .stores _ _ _ hb
  · exact .stops _

theorem branchOp_effect {taken : Bool} {off : BitVec 13} {s t : State} (h : branchOp taken off s = .next t) :
    Effect s t := by
  rw [branchOp_eq] at h
  obtain rfl := Host.Outcome.next.inj h
  exact .branches _

theorem execEcall_effect {s t : State} (h : execEcall s = .next t) : Effect s t := by
  rcases execEcall_cases s with ⟨-, e⟩ | e | ⟨-, b, rest, hi, e⟩ | ⟨-, -, -, e⟩ | ⟨-, -, -, e⟩ | ⟨d, e⟩ <;> rw [e] at h
  · obtain rfl := Host.Outcome.next.inj h; exact .stops _
  · obtain rfl := Host.Outcome.next.inj h; exact .sends _
  · obtain rfl := Host.Outcome.next.inj h; exact .receives b rest hi
  · obtain rfl := Host.Outcome.next.inj h; exact .writes _ _
  · cases h
  · obtain rfl := Host.Outcome.next.inj h; exact .reports d

/-- Say once what an instruction can do: whatever `i` is, a next state of its meaning has one of the shapes of `Effect`. -/
theorem exec_effect {i : Instr} {s t : State} (h : exec i s = .next t) : Effect s t := by
  cases i
  case ecall => exact execEcall_effect h
  case lb | lh | lw | lbu | lhu => exact loadOp_effect h
  case sb | sh | sw => exact storeOp_effect h
  case beq | bne | blt | bge | bltu | bgeu => exact branchOp_effect h
  case jal | jalr => obtain rfl := Host.Outcome.next.inj h; exact .jumps _ _ _
  case ebreak | reservedMulh | reservedMulhsu | reservedMulhu | reservedBranch2 | reservedBranch3 =>
    obtain rfl := Host.Outcome.next.inj h; exact .stops _
  case systemNop => obtain rfl := Host.Outcome.next.inj h; exact .falls
  case loadWidth3 | loadWidth6 | loadWidth7 | storeWidth3 | storeWidth4 | storeWidth5 | storeWidth6 | storeWidth7 =>
    obtain rfl := Host.Outcome.next.inj h; exact .reports _
  all_goals (obtain rfl := Host.Outcome.next.inj h; exact .writes _ _)

/-! ### One step, said once (R37) -/

/-- Everything a step that answers a next state can be: a stop taken before the instruction, or the meaning of the decoded
instruction with the cycle counted. -/
theorem step_cases {s t : State} (h : step s = .next t) :
    s.run = .running ∧
    ((∃ c, t = s.stop c) ∨
     ∃ w i u, s.ceilingReached = false ∧ s.fetch = .ok w ∧ decodeWord w = .ok i ∧ exec i s = .next u ∧
       t = u.countCycle) := by
  unfold step at h
  cases hr : s.run with
  | stopped c => simp [hr] at h
  | running =>
    simp only [hr] at h
    refine ⟨rfl, ?_⟩
    cases hc : s.ceilingReached with
    | true => simp [hc] at h; exact .inl ⟨_, h.symm⟩
    | false =>
      simp only [hc, Bool.false_eq_true, if_false] at h
      cases hf : s.fetch with
      | error c => simp [hf] at h; exact .inl ⟨_, h.symm⟩
      | ok w =>
        simp only [hf] at h
        cases hd : decodeWord w with
        | error e => simp [hd] at h; exact .inl ⟨_, h.symm⟩
        | ok i =>
          simp only [hd] at h
          cases he : exec i s with
          | next u => simp only [he, countCompleted, Host.Outcome.next.injEq] at h; exact .inr ⟨w, i, u, rfl, rfl, hd, he, h.symm⟩
          | fault f => simp [he, countCompleted] at h
          | refused r => simp [he, countCompleted] at h

end Sys2Proof.Machine
end

