-- ==== Sys2Proof/Laws/PerInstr.lean ====
section
/-! SUPPORT. Statements made per instruction, one lemma per constructor of Instr: the family EncodeInRow says that the encoded
word of an instruction belongs to that instruction's row of the opcode table (30_encoding.md R112). -/

namespace Sys2Proof.Laws.EncodeInRow

/-- The word `encode i` matches the row of `i`: it has the pattern under the mask. -/
def Statement (i : Instr) : Prop := encode i &&& (rowOf i).mask = (rowOf i).pattern

/-! ### What a row's mask leaves of each format -/

theorem append_and {v w : Nat} (x a : BitVec v) (y b : BitVec w) :
    (x ++ y) &&& (a ++ b) = (x &&& a) ++ (y &&& b) := by
  refine BitVec.eq_of_getLsbD_eq fun i hi => ?_
  simp only [BitVec.getLsbD_and, BitVec.getLsbD_append]
  split <;> rfl

theorem and_mask7 (x : BitVec 7) : x &&& 0x7F#7 = x := BitVec.and_allOnes

theorem and_mask3 (x : BitVec 3) : x &&& 7#3 = x := BitVec.and_allOnes

section formats
variable (f7 op : BitVec 7) (f3 : BitVec 3) (rd rs1 rs2 : RegIdx) (imm : BitVec 12) (shamt : BitVec 5)
  (off : BitVec 13) (imm20 : BitVec 20) (off21 : BitVec 21)

theorem encodeR_and : encodeR f7 rs2 rs1 f3 rd op &&& 0xFE00707F = encodeR f7 0 0 f3 0 op := by
  change (f7 ++ fieldOfReg rs2 ++ fieldOfReg rs1 ++ f3 ++ fieldOfReg rd ++ op) &&&
    (0x7F#7 ++ 0#5 ++ 0#5 ++ 7#3 ++ 0#5 ++ 0x7F#7) = f7 ++ 0#5 ++ 0#5 ++ f3 ++ 0#5 ++ op
  simp only [append_and, BitVec.and_zero, and_mask7, and_mask3]

theorem encodeI_and : encodeI imm rs1 f3 rd op &&& 0x0000707F = encodeI 0 0 f3 0 op := by
  change (imm ++ fieldOfReg rs1 ++ f3 ++ fieldOfReg rd ++ op) &&&
    (0#12 ++ 0#5 ++ 7#3 ++ 0#5 ++ 0x7F#7) = 0#12 ++ 0#5 ++ f3 ++ 0#5 ++ op
  simp only [append_and, BitVec.and_zero, and_mask7, and_mask3]

/-- JALR and the SYSTEM no-op have one row for every funct3. -/
theorem encodeI_and_opcode : encodeI imm rs1 f3 rd op &&& 0x0000007F = encodeI 0 0 0 0 op := by
  change (imm ++ fieldOfReg rs1 ++ f3 ++ fieldOfReg rd ++ op) &&&
    (0#12 ++ 0#5 ++ 0#3 ++ 0#5 ++ 0x7F#7) = 0#12 ++ 0#5 ++ 0#3 ++ 0#5 ++ op
  simp only [append_and, BitVec.and_zero, and_mask7]

/-- SLLI's row does not look at the upper seven bits. -/
theorem encodeShift_and : encodeShift f7 shamt rs1 f3 rd &&& 0x0000707F = encodeShift 0 0 0 f3 0 := by
  change (f7 ++ shamt ++ fieldOfReg rs1 ++ f3 ++ fieldOfReg rd ++ 0x13#7) &&&
    (0#7 ++ 0#5 ++ 0#5 ++ 7#3 ++ 0#5 ++ 0x7F#7) = 0#7 ++ 0#5 ++ 0#5 ++ f3 ++ 0#5 ++ 0x13#7
  simp only [append_and, BitVec.and_zero, and_mask7, and_mask3]

theorem encodeShift_and_funct7 : encodeShift f7 shamt rs1 f3 rd &&& 0xFE00707F = encodeShift f7 0 0 f3 0 := by
  change (f7 ++ shamt ++ fieldOfReg rs1 ++ f3 ++ fieldOfReg rd ++ 0x13#7) &&&
    (0x7F#7 ++ 0#5 ++ 0#5 ++ 7#3 ++ 0#5 ++ 0x7F#7) = f7 ++ 0#5 ++ 0#5 ++ f3 ++ 0#5 ++ 0x13#7
  simp only [append_and, BitVec.and_zero, and_mask7, and_mask3]

theorem encodeS_and : encodeS imm rs2 rs1 f3 &&& 0x0000707F = encodeS 0 0 0 f3 := by
  change (imm.extractLsb' 5 7 ++ fieldOfReg rs2 ++ fieldOfReg rs1 ++ f3 ++ imm.extractLsb' 0 5 ++ 0x23#7) &&&
    (0#7 ++ 0#5 ++ 0#5 ++ 7#3 ++ 0#5 ++ 0x7F#7) = 0#7 ++ 0#5 ++ 0#5 ++ f3 ++ 0#5 ++ 0x23#7
  simp only [append_and, BitVec.and_zero, and_mask7, and_mask3]

theorem encodeB_and : encodeB off rs2 rs1 f3 &&& 0x0000707F = encodeB 0 0 0 f3 := by
  change (off.extractLsb' 12 1 ++ off.extractLsb' 5 6 ++ fieldOfReg rs2 ++ fieldOfReg rs1 ++ f3 ++ off.extractLsb' 1 4 ++
    off.extractLsb' 11 1 ++ 0x63#7) &&&
    (0#1 ++ 0#6 ++ 0#5 ++ 0#5 ++ 7#3 ++ 0#4 ++ 0#1 ++ 0x7F#7) =
    0#1 ++ 0#6 ++ 0#5 ++ 0#5 ++ f3 ++ 0#4 ++ 0#1 ++ 0x63#7
  simp only [append_and, BitVec.and_zero, and_mask7, and_mask3]

theorem encodeU_and : encodeU imm20 rd op &&& 0x0000007F = encodeU 0 0 op := by
  change (imm20 ++ fieldOfReg rd ++ op) &&&
    (0#20 ++ 0#5 ++ 0x7F#7) = 0#20 ++ 0#5 ++ op
  simp only [append_and, BitVec.and_zero, and_mask7]

theorem encodeJ_and : encodeJ off21 rd &&& 0x0000007F = encodeJ 0 0 := by
  change (off21.extractLsb' 20 1 ++ off21.extractLsb' 1 10 ++ off21.extractLsb' 11 1 ++ off21.extractLsb' 12 8 ++
    fieldOfReg rd ++ 0x6F#7) &&&
    (0#1 ++ 0#10 ++ 0#1 ++ 0#8 ++ 0#5 ++ 0x7F#7) = 0#1 ++ 0#10 ++ 0#1 ++ 0#8 ++ 0#5 ++ 0x6F#7
  simp only [append_and, BitVec.and_zero, and_mask7]

end formats

/-! ### One lemma per constructor -/

theorem add (rd rs1 rs2 : RegIdx) : Statement (.add rd rs1 rs2) :=
  (encodeR_and _ _ _ _ _ _).trans rfl

theorem sub (rd rs1 rs2 : RegIdx) : Statement (.sub rd rs1 rs2) :=
  (encodeR_and _ _ _ _ _ _).trans rfl

theorem sll (rd rs1 rs2 : RegIdx) : Statement (.sll rd rs1 rs2) :=
  (encodeR_and _ _ _ _ _ _).trans rfl

theorem slt (rd rs1 rs2 : RegIdx) : Statement (.slt rd rs1 rs2) :=
  (encodeR_and _ _ _ _ _ _).trans rfl

theorem sltu (rd rs1 rs2 : RegIdx) : Statement (.sltu rd rs1 rs2) :=
  (encodeR_and _ _ _ _ _ _).trans rfl

theorem xor (rd rs1 rs2 : RegIdx) : Statement (.xor rd rs1 rs2) :=
  (encodeR_and _ _ _ _ _ _).trans rfl

theorem srl (rd rs1 rs2 : RegIdx) : Statement (.srl rd rs1 rs2) :=
  (encodeR_and _ _ _ _ _ _).trans rfl

theorem sra (rd rs1 rs2 : RegIdx) : Statement (.sra rd rs1 rs2) :=
  (encodeR_and _ _ _ _ _ _).trans rfl

theorem or (rd rs1 rs2 : RegIdx) : Statement (.or rd rs1 rs2) :=
  (encodeR_and _ _ _ _ _ _).trans rfl

theorem and (rd rs1 rs2 : RegIdx) : Statement (.and rd rs1 rs2) :=
  (encodeR_and _ _ _ _ _ _).trans rfl

theorem mul (rd rs1 rs2 : RegIdx) : Statement (.mul rd rs1 rs2) :=
  (encodeR_and _ _ _ _ _ _).trans rfl

theorem div (rd rs1 rs2 : RegIdx) : Statement (.div rd rs1 rs2) :=
  (encodeR_and _ _ _ _ _ _).trans rfl

theorem divu (rd rs1 rs2 : RegIdx) : Statement (.divu rd rs1 rs2) :=
  (encodeR_and _ _ _ _ _ _).trans rfl

theorem rem (rd rs1 rs2 : RegIdx) : Statement (.rem rd rs1 rs2) :=
  (encodeR_and _ _ _ _ _ _).trans rfl

theorem remu (rd rs1 rs2 : RegIdx) : Statement (.remu rd rs1 rs2) :=
  (encodeR_and _ _ _ _ _ _).trans rfl

theorem addi (rd rs1 : RegIdx) (imm : BitVec 12) : Statement (.addi rd rs1 imm) :=
  (encodeI_and _ _ _ _ _).trans rfl

theorem slti (rd rs1 : RegIdx) (imm : BitVec 12) : Statement (.slti rd rs1 imm) :=
  (encodeI_and _ _ _ _ _).trans rfl

theorem sltiu (rd rs1 : RegIdx) (imm : BitVec 12) : Statement (.sltiu rd rs1 imm) :=
  (encodeI_and _ _ _ _ _).trans rfl

theorem xori (rd rs1 : RegIdx) (imm : BitVec 12) : Statement (.xori rd rs1 imm) :=
  (encodeI_and _ _ _ _ _).trans rfl

theorem ori (rd rs1 : RegIdx) (imm : BitVec 12) : Statement (.ori rd rs1 imm) :=
  (encodeI_and _ _ _ _ _).trans rfl

theorem andi (rd rs1 : RegIdx) (imm : BitVec 12) : Statement (.andi rd rs1 imm) :=
  (encodeI_and _ _ _ _ _).trans rfl

theorem slli (rd rs1 : RegIdx) (shamt : BitVec 5) : Statement (.slli rd rs1 shamt) :=
  (encodeShift_and _ _ _ _ _).trans rfl

theorem srli (rd rs1 : RegIdx) (shamt : BitVec 5) : Statement (.srli rd rs1 shamt) :=
  (encodeShift_and_funct7 _ _ _ _ _).trans rfl

theorem srai (rd rs1 : RegIdx) (shamt : BitVec 5) : Statement (.srai rd rs1 shamt) :=
  (encodeShift_and_funct7 _ _ _ _ _).trans rfl

theorem lb (rd rs1 : RegIdx) (imm : BitVec 12) : Statement (.lb rd rs1 imm) :=
  (encodeI_and _ _ _ _ _).trans rfl

theorem lh (rd rs1 : RegIdx) (imm : BitVec 12) : Statement (.lh rd rs1 imm) :=
  (encodeI_and _ _ _ _ _).trans rfl

theorem lw (rd rs1 : RegIdx) (imm : BitVec 12) : Statement (.lw rd rs1 imm) :=
  (encodeI_and _ _ _ _ _).trans rfl

theorem lbu (rd rs1 : RegIdx) (imm : BitVec 12) : Statement (.lbu rd rs1 imm) :=
  (encodeI_and _ _ _ _ _).trans rfl

theorem lhu (rd rs1 : RegIdx) (imm : BitVec 12) : Statement (.lhu rd rs1 imm) :=
  (encodeI_and _ _ _ _ _).trans rfl

theorem sb (rs1 rs2 : RegIdx) (imm : BitVec 12) : Statement (.sb rs1 rs2 imm) :=
  (encodeS_and _ _ _ _).trans rfl

theorem sh (rs1 rs2 : RegIdx) (imm : BitVec 12) : Statement (.sh rs1 rs2 imm) :=
  (encodeS_and _ _ _ _).trans rfl

theorem sw (rs1 rs2 : RegIdx) (imm : BitVec 12) : Statement (.sw rs1 rs2 imm) :=
  (encodeS_and _ _ _ _).trans rfl

theorem beq (rs1 rs2 : RegIdx) (off : BitVec 13) : Statement (.beq rs1 rs2 off) :=
  (encodeB_and _ _ _ _).trans rfl

theorem bne (rs1 rs2 : RegIdx) (off : BitVec 13) : Statement (.bne rs1 rs2 off) :=
  (encodeB_and _ _ _ _).trans rfl

theorem blt (rs1 rs2 : RegIdx) (off : BitVec 13) : Statement (.blt rs1 rs2 off) :=
  (encodeB_and _ _ _ _).trans rfl

theorem bge (rs1 rs2 : RegIdx) (off : BitVec 13) : Statement (.bge rs1 rs2 off) :=
  (encodeB_and _ _ _ _).trans rfl

theorem bltu (rs1 rs2 : RegIdx) (off : BitVec 13) : Statement (.bltu rs1 rs2 off) :=
  (encodeB_and _ _ _ _).trans rfl

theorem bgeu (rs1 rs2 : RegIdx) (off : BitVec 13) : Statement (.bgeu rs1 rs2 off) :=
  (encodeB_and _ _ _ _).trans rfl

theorem lui (rd : RegIdx) (imm : BitVec 20) : Statement (.lui rd imm) :=
  (encodeU_and _ _ _).trans rfl

theorem auipc (rd : RegIdx) (imm : BitVec 20) : Statement (.auipc rd imm) :=
  (encodeU_and _ _ _).trans rfl

theorem jal (rd : RegIdx) (off : BitVec 21) : Statement (.jal rd off) :=
  (encodeJ_and _ _).trans rfl

theorem jalr (rd rs1 : RegIdx) (imm : BitVec 12) : Statement (.jalr rd rs1 imm) :=
  (encodeI_and_opcode _ _ _ _ _).trans rfl

theorem ecall : Statement .ecall := rfl

theorem ebreak : Statement .ebreak := rfl

theorem systemNop (imm : BitVec 12) : Statement (.systemNop imm) :=
  (encodeI_and_opcode _ _ _ _ _).trans rfl

theorem loadWidth3 (rd rs1 : RegIdx) (imm : BitVec 12) : Statement (.loadWidth3 rd rs1 imm) :=
  (encodeI_and _ _ _ _ _).trans rfl

theorem loadWidth6 (rd rs1 : RegIdx) (imm : BitVec 12) : Statement (.loadWidth6 rd rs1 imm) :=
  (encodeI_and _ _ _ _ _).trans rfl

theorem loadWidth7 (rd rs1 : RegIdx) (imm : BitVec 12) : Statement (.loadWidth7 rd rs1 imm) :=
  (encodeI_and _ _ _ _ _).trans rfl

theorem storeWidth3 (rs1 rs2 : RegIdx) (imm : BitVec 12) : Statement (.storeWidth3 rs1 rs2 imm) :=
  (encodeS_and _ _ _ _).trans rfl

theorem storeWidth4 (rs1 rs2 : RegIdx) (imm : BitVec 12) : Statement (.storeWidth4 rs1 rs2 imm) :=
  (encodeS_and _ _ _ _).trans rfl

theorem storeWidth5 (rs1 rs2 : RegIdx) (imm : BitVec 12) : Statement (.storeWidth5 rs1 rs2 imm) :=
  (encodeS_and _ _ _ _).trans rfl

theorem storeWidth6 (rs1 rs2 : RegIdx) (imm : BitVec 12) : Statement (.storeWidth6 rs1 rs2 imm) :=
  (encodeS_and _ _ _ _).trans rfl

theorem storeWidth7 (rs1 rs2 : RegIdx) (imm : BitVec 12) : Statement (.storeWidth7 rs1 rs2 imm) :=
  (encodeS_and _ _ _ _).trans rfl

theorem reservedMulh (rd rs1 rs2 : RegIdx) : Statement (.reservedMulh rd rs1 rs2) :=
  (encodeR_and _ _ _ _ _ _).trans rfl

theorem reservedMulhsu (rd rs1 rs2 : RegIdx) : Statement (.reservedMulhsu rd rs1 rs2) :=
  (encodeR_and _ _ _ _ _ _).trans rfl

theorem reservedMulhu (rd rs1 rs2 : RegIdx) : Statement (.reservedMulhu rd rs1 rs2) :=
  (encodeR_and _ _ _ _ _ _).trans rfl

theorem reservedBranch2 (rs1 rs2 : RegIdx) (off : BitVec 13) : Statement (.reservedBranch2 rs1 rs2 off) :=
  (encodeB_and _ _ _ _).trans rfl

theorem reservedBranch3 (rs1 rs2 : RegIdx) (off : BitVec 13) : Statement (.reservedBranch3 rs1 rs2 off) :=
  (encodeB_and _ _ _ _).trans rfl

end Sys2Proof.Laws.EncodeInRow
end

