-- ==== Sys2Proof/Tests/Slice0.lean ====
section
/-! SUPPORT. Tests of the model, whose expected results come from spec/95_test_vectors.md (tables T, V1 to V13) or are worked out
by hand from the rule named, and witnesses: for each statement with hypotheses a state and operands that meet them. -/

namespace Sys2Proof.Tests

open Sys2Proof Sys2Proof.Machine Sys2Proof.Claims

/-! ### Small states -/

/-- The reset state at another pc, with some registers and some words of memory set. -/
def machine (pc : Word) (regs : List (RegIdx × Word)) (mem : List (Nat × Word)) : State :=
  regs.foldl (fun s p => s.writeReg p.1 p.2)
    ((State.reset.setPc pc).setMem (mem.foldl (fun m p => Memory.writeLE m p.1 p.2 4) []))

/-- The same with capacity 0x1000, the capacity of tables V7 and V13. -/
def small (pc : Word) (regs : List (RegIdx × Word)) (mem : List (Nat × Word)) : State :=
  { machine pc regs mem with cfg := { Config.default with cap := 0x1000 } }

/-- The same with characters to read. -/
def withInput (s : State) (input : List Byte) (ended : Bool) : State := { s with input := input, inputEnded := ended }

/-- What a test asks of a next state. -/
def after (r : Result) (f : State → Bool) : Bool :=
  match r with
  | .next t => f t
  | _ => false

/-- One step with the word `w` at pc. -/
def goes (s : State) (w : Nat) (f : State → Bool) : Bool := after (step (s.withFetchWord 32 w)) f

/-- One step with the word `w` at pc takes the stop `c` and changes nothing else. -/
def stops (s : State) (w : Nat) (c : StopCause) : Bool := goes s w (fun t => t = (s.withFetchWord 32 w).stop c)

/-! ### WellFormed refuses each kind of ill-formed term -/

theorem test_wf_odd_branch_offset : (Instr.beq 1 2 17).wf = false := by decide
theorem test_wf_odd_reserved_branch_offset : (Instr.reservedBranch2 1 2 1).wf = false := by decide
theorem test_wf_odd_jump_offset : (Instr.jal 1 2049).wf = false := by decide
theorem test_wf_systemNop_of_ecall : (Instr.systemNop 0).wf = false := by decide
theorem test_wf_systemNop_of_ebreak : (Instr.systemNop 1).wf = false := by decide

/-! ### Every constructor's decoding and encoding, by words of the spec's tables -/

theorem test_decode_register :
    decodeWord 0x002081B3 = .ok (.add 3 1 2) ∧
    decodeWord 0x402081B3 = .ok (.sub 3 1 2) ∧
    decodeWord 0x002091B3 = .ok (.sll 3 1 2) ∧
    decodeWord 0x0020A1B3 = .ok (.slt 3 1 2) ∧
    decodeWord 0x0020B1B3 = .ok (.sltu 3 1 2) ∧
    decodeWord 0x0020C1B3 = .ok (.xor 3 1 2) ∧
    decodeWord 0x0020D1B3 = .ok (.srl 3 1 2) ∧
    decodeWord 0x4020D1B3 = .ok (.sra 3 1 2) ∧
    decodeWord 0x0020E1B3 = .ok (.or 3 1 2) ∧
    decodeWord 0x0020F1B3 = .ok (.and 3 1 2) := by decide

theorem test_decode_muldiv :
    decodeWord 0x022081B3 = .ok (.mul 3 1 2) ∧
    decodeWord 0x0220C1B3 = .ok (.div 3 1 2) ∧
    decodeWord 0x0220D1B3 = .ok (.divu 3 1 2) ∧
    decodeWord 0x0220E1B3 = .ok (.rem 3 1 2) ∧
    decodeWord 0x0220F1B3 = .ok (.remu 3 1 2) := by decide

theorem test_decode_immediate :
    decodeWord 0xFFF08193 = .ok (.addi 3 1 (-1)) ∧
    decodeWord 0x40008193 = .ok (.addi 3 1 1024) ∧
    decodeWord 0x8000A193 = .ok (.slti 3 1 (-2048)) ∧
    decodeWord 0x7FF0B193 = .ok (.sltiu 3 1 2047) ∧
    decodeWord 0x5550C193 = .ok (.xori 3 1 1365) ∧
    decodeWord 0x0F00E193 = .ok (.ori 3 1 240) ∧
    decodeWord 0xF0F0F193 = .ok (.andi 3 1 (-241)) ∧
    decodeWord 0x01F09193 = .ok (.slli 3 1 31) ∧
    decodeWord 0x0050D193 = .ok (.srli 3 1 5) ∧
    decodeWord 0x41F0D193 = .ok (.srai 3 1 31) := by decide

theorem test_decode_load :
    decodeWord 0xFFC08183 = .ok (.lb 3 1 (-4)) ∧
    decodeWord 0x00209183 = .ok (.lh 3 1 2) ∧
    decodeWord 0xFFD0A183 = .ok (.lw 3 1 (-3)) ∧
    decodeWord 0xFFC0C183 = .ok (.lbu 3 1 (-4)) ∧
    decodeWord 0xFFE0D183 = .ok (.lhu 3 1 (-2)) := by decide

theorem test_decode_store :
    decodeWord 0x002081A3 = .ok (.sb 1 2 3) ∧
    decodeWord 0xFE209FA3 = .ok (.sh 1 2 (-1)) ∧
    decodeWord 0xFE20AE23 = .ok (.sw 1 2 (-4)) ∧
    decodeWord 0x7E20AFA3 = .ok (.sw 1 2 2047) ∧
    decodeWord 0x02208023 = .ok (.sb 1 2 32) ∧
    decodeWord 0x00208FA3 = .ok (.sb 1 2 31) := by decide

theorem test_decode_branch :
    decodeWord 0x00208863 = .ok (.beq 1 2 16) ∧
    decodeWord 0xFE209CE3 = .ok (.bne 1 2 (-8)) ∧
    decodeWord 0x0020C863 = .ok (.blt 1 2 16) ∧
    decodeWord 0x80005063 = .ok (.bge 0 0 (-4096)) ∧
    decodeWord 0x0020E863 = .ok (.bltu 1 2 16) ∧
    decodeWord 0x7E007FE3 = .ok (.bgeu 0 0 4094) ∧
    decodeWord 0x000000E3 = .ok (.beq 0 0 2048) ∧
    decodeWord 0x00000163 = .ok (.beq 0 0 2) := by decide

theorem test_decode_upper_and_jump :
    decodeWord 0x123452B7 = .ok (.lui 5 0x12345) ∧
    decodeWord 0x80000297 = .ok (.auipc 5 0x80000) ∧
    decodeWord 0x001000EF = .ok (.jal 1 2048) ∧
    decodeWord 0x000010EF = .ok (.jal 1 4096) ∧
    decodeWord 0x800000EF = .ok (.jal 1 (-1048576)) ∧
    decodeWord 0x7FFFF0EF = .ok (.jal 1 1048574) ∧
    decodeWord 0xFFD302E7 = .ok (.jalr 5 6 (-3)) := by decide

theorem test_decode_system :
    decodeWord 0x00000073 = .ok (.ecall) ∧
    decodeWord 0x00100073 = .ok (.ebreak) ∧
    decodeWord 0x00200073 = .ok (.systemNop 2) ∧
    decodeWord 0xFFF00073 = .ok (.systemNop 0xFFF) := by decide

theorem test_decode_widths :
    decodeWord 0x0000B183 = .ok (.loadWidth3 3 1 0) ∧
    decodeWord 0x0000E183 = .ok (.loadWidth6 3 1 0) ∧
    decodeWord 0x0000F183 = .ok (.loadWidth7 3 1 0) ∧
    decodeWord 0x0020B023 = .ok (.storeWidth3 1 2 0) ∧
    decodeWord 0x0020C023 = .ok (.storeWidth4 1 2 0) ∧
    decodeWord 0x0020D023 = .ok (.storeWidth5 1 2 0) ∧
    decodeWord 0x0020E023 = .ok (.storeWidth6 1 2 0) ∧
    decodeWord 0x0020F023 = .ok (.storeWidth7 1 2 0) := by decide

theorem test_decode_reserved :
    decodeWord 0x022091B3 = .ok (.reservedMulh 3 1 2) ∧
    decodeWord 0x0220A1B3 = .ok (.reservedMulhsu 3 1 2) ∧
    decodeWord 0x0220B1B3 = .ok (.reservedMulhu 3 1 2) ∧
    decodeWord 0x0020A863 = .ok (.reservedBranch2 1 2 16) ∧
    decodeWord 0x0020B863 = .ok (.reservedBranch3 1 2 16) := by decide

theorem test_encode_register :
    encode (.add 3 1 2) = 0x002081B3 ∧
    encode (.sub 3 1 2) = 0x402081B3 ∧
    encode (.sll 3 1 2) = 0x002091B3 ∧
    encode (.slt 3 1 2) = 0x0020A1B3 ∧
    encode (.sltu 3 1 2) = 0x0020B1B3 ∧
    encode (.xor 3 1 2) = 0x0020C1B3 ∧
    encode (.srl 3 1 2) = 0x0020D1B3 ∧
    encode (.sra 3 1 2) = 0x4020D1B3 ∧
    encode (.or 3 1 2) = 0x0020E1B3 ∧
    encode (.and 3 1 2) = 0x0020F1B3 := by decide

theorem test_encode_muldiv :
    encode (.mul 3 1 2) = 0x022081B3 ∧
    encode (.div 3 1 2) = 0x0220C1B3 ∧
    encode (.divu 3 1 2) = 0x0220D1B3 ∧
    encode (.rem 3 1 2) = 0x0220E1B3 ∧
    encode (.remu 3 1 2) = 0x0220F1B3 := by decide

theorem test_encode_immediate :
    encode (.addi 3 1 (-1)) = 0xFFF08193 ∧
    encode (.addi 3 1 1024) = 0x40008193 ∧
    encode (.slti 3 1 (-2048)) = 0x8000A193 ∧
    encode (.sltiu 3 1 2047) = 0x7FF0B193 ∧
    encode (.xori 3 1 1365) = 0x5550C193 ∧
    encode (.ori 3 1 240) = 0x0F00E193 ∧
    encode (.andi 3 1 (-241)) = 0xF0F0F193 ∧
    encode (.slli 3 1 31) = 0x01F09193 ∧
    encode (.srli 3 1 5) = 0x0050D193 ∧
    encode (.srai 3 1 31) = 0x41F0D193 := by decide

theorem test_encode_load :
    encode (.lb 3 1 (-4)) = 0xFFC08183 ∧
    encode (.lh 3 1 2) = 0x00209183 ∧
    encode (.lw 3 1 (-3)) = 0xFFD0A183 ∧
    encode (.lbu 3 1 (-4)) = 0xFFC0C183 ∧
    encode (.lhu 3 1 (-2)) = 0xFFE0D183 := by decide

theorem test_encode_store :
    encode (.sb 1 2 3) = 0x002081A3 ∧
    encode (.sh 1 2 (-1)) = 0xFE209FA3 ∧
    encode (.sw 1 2 (-4)) = 0xFE20AE23 ∧
    encode (.sw 1 2 2047) = 0x7E20AFA3 ∧
    encode (.sb 1 2 32) = 0x02208023 ∧
    encode (.sb 1 2 31) = 0x00208FA3 := by decide

theorem test_encode_branch :
    encode (.beq 1 2 16) = 0x00208863 ∧
    encode (.bne 1 2 (-8)) = 0xFE209CE3 ∧
    encode (.blt 1 2 16) = 0x0020C863 ∧
    encode (.bge 0 0 (-4096)) = 0x80005063 ∧
    encode (.bltu 1 2 16) = 0x0020E863 ∧
    encode (.bgeu 0 0 4094) = 0x7E007FE3 ∧
    encode (.beq 0 0 2048) = 0x000000E3 ∧
    encode (.beq 0 0 2) = 0x00000163 := by decide

theorem test_encode_upper_and_jump :
    encode (.lui 5 0x12345) = 0x123452B7 ∧
    encode (.auipc 5 0x80000) = 0x80000297 ∧
    encode (.jal 1 2048) = 0x001000EF ∧
    encode (.jal 1 4096) = 0x000010EF ∧
    encode (.jal 1 (-1048576)) = 0x800000EF ∧
    encode (.jal 1 1048574) = 0x7FFFF0EF ∧
    encode (.jalr 5 6 (-3)) = 0xFFD302E7 := by decide

theorem test_encode_system :
    encode (.ecall) = 0x00000073 ∧
    encode (.ebreak) = 0x00100073 ∧
    encode (.systemNop 2) = 0x00200073 ∧
    encode (.systemNop 0xFFF) = 0xFFF00073 := by decide

theorem test_encode_widths :
    encode (.loadWidth3 3 1 0) = 0x0000B183 ∧
    encode (.loadWidth6 3 1 0) = 0x0000E183 ∧
    encode (.loadWidth7 3 1 0) = 0x0000F183 ∧
    encode (.storeWidth3 1 2 0) = 0x0020B023 ∧
    encode (.storeWidth4 1 2 0) = 0x0020C023 ∧
    encode (.storeWidth5 1 2 0) = 0x0020D023 ∧
    encode (.storeWidth6 1 2 0) = 0x0020E023 ∧
    encode (.storeWidth7 1 2 0) = 0x0020F023 := by decide

theorem test_encode_reserved :
    encode (.reservedMulh 3 1 2) = 0x022091B3 ∧
    encode (.reservedMulhsu 3 1 2) = 0x0220A1B3 ∧
    encode (.reservedMulhu 3 1 2) = 0x0220B1B3 ∧
    encode (.reservedBranch2 1 2 16) = 0x0020A863 ∧
    encode (.reservedBranch3 1 2 16) = 0x0020B863 := by decide

/-- Words whose unconsulted bits are not zero (R105; V4, V10, V11). -/
theorem test_decode_not_consulted :
    decodeWord 0x40109193 = .ok (.slli 3 1 1) ∧ decodeWord 0x0000D0E7 = .ok (.jalr 1 1 0) ∧
    decodeWord 0x00001073 = .ok .ecall ∧ decodeWord 0x001012F3 = .ok .ebreak ∧
    decodeWord 0xC0002573 = .ok (.systemNop 0xC00) := by decide

/-- V12: words that are no instruction. -/
theorem test_decode_no_instruction :
    decodeWord 0x00000000 = .error .unsupportedOpcode ∧ decodeWord 0xFFFFFFFF = .error .unsupportedOpcode ∧
    decodeWord 0x0FF0000F = .error .unsupportedOpcode ∧ decodeWord 0x1000202F = .error .unsupportedOpcode ∧
    decodeWord 0x00008082 = .error .unsupportedOpcode ∧ decodeWord 0x042081B3 = .error .reservedFunct7 ∧
    decodeWord 0xFE20F1B3 = .error .reservedFunct7 ∧ decodeWord 0x402091B3 = .error .reservedAlternate ∧
    decodeWord 0x4020F1B3 = .error .reservedAlternate ∧ decodeWord 0x2010D193 = .error .reservedShift ∧
    decodeWord 0xFFF0D193 = .error .reservedShift := by decide

/-- The decoder reads bytes little-endian, and refuses fewer than four (R54, R80). -/
theorem test_decode_bytes :
    decodeBytes [0x93, 0x00, 0x10, 0x00] = .ok (.addi 1 0 1) ∧ decodeBytes [0x93, 0x00, 0x10] = .error .tooFewBytes ∧
    decodeTableWord 32 0x00100093 = some (.addi 1 0 1) ∧ decodeTableWord 32 0 = none := by decide

/-! ### One step of each instruction -/

/-! V2 -/
theorem test_add_wraps : goes (machine 0x1000 [(1, 0xFFFFFFFF), (2, 0x00000001)] []) 0x002081B3 (fun t => t.readReg 3 == 0x00000000 && t.pc == 0x1004) = true := by decide
theorem test_sub_borrows : goes (machine 0x1000 [(1, 0x00000000), (2, 0x00000001)] []) 0x402081B3 (fun t => t.readReg 3 == 0xFFFFFFFF && t.pc == 0x1004) = true := by decide
theorem test_sub_order : goes (machine 0x1000 [(1, 0x80000000), (2, 0x00000001)] []) 0x402081B3 (fun t => t.readReg 3 == 0x7FFFFFFF && t.pc == 0x1004) = true := by decide
theorem test_sll_masks_amount : goes (machine 0x1000 [(1, 0x00000001), (2, 0x00000021)] []) 0x002091B3 (fun t => t.readReg 3 == 0x00000002 && t.pc == 0x1004) = true := by decide
theorem test_sll_all_ones : goes (machine 0x1000 [(1, 0xFFFFFFFF), (2, 0xFFFFFFFF)] []) 0x002091B3 (fun t => t.readReg 3 == 0x80000000 && t.pc == 0x1004) = true := by decide
theorem test_slt_overflow_pair : goes (machine 0x1000 [(1, 0x80000000), (2, 0x7FFFFFFF)] []) 0x0020A1B3 (fun t => t.readReg 3 == 0x00000001 && t.pc == 0x1004) = true := by decide
theorem test_slt_equal : goes (machine 0x1000 [(1, 0x00000007), (2, 0x00000007)] []) 0x0020A1B3 (fun t => t.readReg 3 == 0x00000000 && t.pc == 0x1004) = true := by decide
theorem test_sltu_large : goes (machine 0x1000 [(1, 0x80000000), (2, 0x7FFFFFFF)] []) 0x0020B1B3 (fun t => t.readReg 3 == 0x00000000 && t.pc == 0x1004) = true := by decide
theorem test_sltu_zero : goes (machine 0x1000 [(1, 0x00000000), (2, 0x00000001)] []) 0x0020B1B3 (fun t => t.readReg 3 == 0x00000001 && t.pc == 0x1004) = true := by decide
theorem test_xor : goes (machine 0x1000 [(1, 0xAAAAAAAA), (2, 0x55555555)] []) 0x0020C1B3 (fun t => t.readReg 3 == 0xFFFFFFFF && t.pc == 0x1004) = true := by decide
theorem test_xor_same : goes (machine 0x1000 [(1, 0x12345678), (2, 0x12345678)] []) 0x0020C1B3 (fun t => t.readReg 3 == 0x00000000 && t.pc == 0x1004) = true := by decide
theorem test_srl_zero_fills : goes (machine 0x1000 [(1, 0x80000000), (2, 0x00000024)] []) 0x0020D1B3 (fun t => t.readReg 3 == 0x08000000 && t.pc == 0x1004) = true := by decide
theorem test_srl_63 : goes (machine 0x1000 [(1, 0xFFFFFFFF), (2, 0x0000003F)] []) 0x0020D1B3 (fun t => t.readReg 3 == 0x00000001 && t.pc == 0x1004) = true := by decide
theorem test_sra_sign_fills : goes (machine 0x1000 [(1, 0x80000000), (2, 0x00000024)] []) 0x4020D1B3 (fun t => t.readReg 3 == 0xF8000000 && t.pc == 0x1004) = true := by decide
theorem test_sra_positive : goes (machine 0x1000 [(1, 0x7FFFFFFF), (2, 0x0000001F)] []) 0x4020D1B3 (fun t => t.readReg 3 == 0x00000000 && t.pc == 0x1004) = true := by decide
theorem test_or : goes (machine 0x1000 [(1, 0xAAAAAAAA), (2, 0x55555555)] []) 0x0020E1B3 (fun t => t.readReg 3 == 0xFFFFFFFF && t.pc == 0x1004) = true := by decide
theorem test_and : goes (machine 0x1000 [(1, 0xFFFFFFFF), (2, 0x12345678)] []) 0x0020F1B3 (fun t => t.readReg 3 == 0x12345678 && t.pc == 0x1004) = true := by decide
theorem test_and_disjoint : goes (machine 0x1000 [(1, 0xAAAAAAAA), (2, 0x55555555)] []) 0x0020F1B3 (fun t => t.readReg 3 == 0x00000000 && t.pc == 0x1004) = true := by decide
theorem test_add_to_x0 : goes (machine 0x1000 [(1, 0x00000005), (2, 0x00000006)] []) 0x00208033 (fun t => t.readReg 0 == 0 && t.pc == 0x1004) = true := by decide

/-! V3 -/
theorem test_mul_low_half : goes (machine 0x1000 [(1, 0xFFFFFFFD), (2, 0x00000007)] []) 0x022081B3 (fun t => t.readReg 3 == 0xFFFFFFEB && t.pc == 0x1004) = true := by decide
theorem test_mul_wraps : goes (machine 0x1000 [(1, 0x00010000), (2, 0x00010000)] []) 0x022081B3 (fun t => t.readReg 3 == 0x00000000 && t.pc == 0x1004) = true := by decide
theorem test_div_toward_zero : goes (machine 0x1000 [(1, 0xFFFFFFF9), (2, 0x00000002)] []) 0x0220C1B3 (fun t => t.readReg 3 == 0xFFFFFFFD && t.pc == 0x1004) = true := by decide
theorem test_div_overflow_pair : goes (machine 0x1000 [(1, 0x80000000), (2, 0xFFFFFFFF)] []) 0x0220C1B3 (fun t => t.readReg 3 == 0x80000000 && t.pc == 0x1004) = true := by decide
theorem test_divu : goes (machine 0x1000 [(1, 0xFFFFFFF9), (2, 0x00000002)] []) 0x0220D1B3 (fun t => t.readReg 3 == 0x7FFFFFFC && t.pc == 0x1004) = true := by decide
theorem test_divu_by_zero : goes (machine 0x1000 [(1, 0x00000007), (2, 0x00000000)] []) 0x0220D1B3 (fun t => t.readReg 3 == 0x00000000 && t.pc == 0x1004) = true := by decide
theorem test_rem_sign_of_dividend : goes (machine 0x1000 [(1, 0xFFFFFFF9), (2, 0x00000002)] []) 0x0220E1B3 (fun t => t.readReg 3 == 0xFFFFFFFF && t.pc == 0x1004) = true := by decide
theorem test_rem_by_zero : goes (machine 0x1000 [(1, 0xFFFFFFF9), (2, 0x00000000)] []) 0x0220E1B3 (fun t => t.readReg 3 == 0x00000000 && t.pc == 0x1004) = true := by decide
theorem test_remu : goes (machine 0x1000 [(1, 0x80000000), (2, 0xFFFFFFFF)] []) 0x0220F1B3 (fun t => t.readReg 3 == 0x80000000 && t.pc == 0x1004) = true := by decide
theorem test_remu_by_zero : goes (machine 0x1000 [(1, 0x00000007), (2, 0x00000000)] []) 0x0220F1B3 (fun t => t.readReg 3 == 0x00000000 && t.pc == 0x1004) = true := by decide

/-! V4 -/
theorem test_addi_negative : goes (machine 0x1000 [(1, 0x00000800)] []) 0x80008193 (fun t => t.readReg 3 == 0x00000000 && t.pc == 0x1004) = true := by decide
theorem test_addi_bit30_is_immediate : goes (machine 0x1000 [(1, 0x00001000)] []) 0x40008193 (fun t => t.readReg 3 == 0x00001400 && t.pc == 0x1004) = true := by decide
theorem test_slti_negative : goes (machine 0x1000 [(1, 0x80000000)] []) 0xFFF0A193 (fun t => t.readReg 3 == 0x00000001 && t.pc == 0x1004) = true := by decide
theorem test_slti_not : goes (machine 0x1000 [(1, 0xFFFFFFFF)] []) 0xFFF0A193 (fun t => t.readReg 3 == 0x00000000 && t.pc == 0x1004) = true := by decide
theorem test_sltiu_sign_extends : goes (machine 0x1000 [(1, 0xFFFFF7FF)] []) 0x8000B193 (fun t => t.readReg 3 == 0x00000001 && t.pc == 0x1004) = true := by decide
theorem test_sltiu_large : goes (machine 0x1000 [(1, 0x80000000)] []) 0x7FF0B193 (fun t => t.readReg 3 == 0x00000000 && t.pc == 0x1004) = true := by decide
theorem test_xori_not : goes (machine 0x1000 [(1, 0x0F0F0F0F)] []) 0xFFF0C193 (fun t => t.readReg 3 == 0xF0F0F0F0 && t.pc == 0x1004) = true := by decide
theorem test_ori_sign_extends : goes (machine 0x1000 [(1, 0x000000FF)] []) 0x8000E193 (fun t => t.readReg 3 == 0xFFFFF8FF && t.pc == 0x1004) = true := by decide
theorem test_andi_sign_extends : goes (machine 0x1000 [(1, 0x12345678)] []) 0xF0F0F193 (fun t => t.readReg 3 == 0x12345608 && t.pc == 0x1004) = true := by decide
theorem test_slli : goes (machine 0x1000 [(1, 0x0F000001)] []) 0x00509193 (fun t => t.readReg 3 == 0xE0000020 && t.pc == 0x1004) = true := by decide
theorem test_slli_not_canonical : goes (machine 0x1000 [(1, 0x00000003)] []) 0x40109193 (fun t => t.readReg 3 == 0x00000006 && t.pc == 0x1004) = true := by decide
theorem test_srli : goes (machine 0x1000 [(1, 0x80000000)] []) 0x0050D193 (fun t => t.readReg 3 == 0x04000000 && t.pc == 0x1004) = true := by decide
theorem test_srai : goes (machine 0x1000 [(1, 0x80000000)] []) 0x4050D193 (fun t => t.readReg 3 == 0xFC000000 && t.pc == 0x1004) = true := by decide
theorem test_srai_positive : goes (machine 0x1000 [(1, 0x7FFFFFFF)] []) 0x41F0D193 (fun t => t.readReg 3 == 0x00000000 && t.pc == 0x1004) = true := by decide

/-! V5, V7 -/
theorem test_lb_sign : goes (machine 0x1000 [(1, 0x00000104)] [(0x100, 0x01FF7F80), (0x104, 0x8091A2F3)]) 0xFFC08183 (fun t => t.readReg 3 == 0xFFFFFF80 && t.pc == 0x1004) = true := by decide
theorem test_lh_sign : goes (machine 0x1000 [(1, 0x00000104)] [(0x100, 0x01FF7F80), (0x104, 0x8091A2F3)]) 0x00209183 (fun t => t.readReg 3 == 0xFFFF8091 && t.pc == 0x1004) = true := by decide
theorem test_lw_misaligned : goes (machine 0x1000 [(1, 0x00000104)] [(0x100, 0x01FF7F80), (0x104, 0x8091A2F3)]) 0xFFD0A183 (fun t => t.readReg 3 == 0xF301FF7F && t.pc == 0x1004) = true := by decide
theorem test_lbu_zero : goes (machine 0x1000 [(1, 0x00000104)] [(0x100, 0x01FF7F80), (0x104, 0x8091A2F3)]) 0xFFC0C183 (fun t => t.readReg 3 == 0x00000080 && t.pc == 0x1004) = true := by decide
theorem test_lhu_misaligned : goes (machine 0x1000 [(1, 0x00000104)] [(0x100, 0x01FF7F80), (0x104, 0x8091A2F3)]) 0xFFD0D183 (fun t => t.readReg 3 == 0x0000FF7F && t.pc == 0x1004) = true := by decide
theorem test_lw_address_wraps : goes (machine 0x1000 [(1, 0xFFFFFFFC)] [(0, 0x11223344)]) 0x0040A183 (fun t => t.readReg 3 == 0x11223344) = true := by decide
theorem test_lb_out_of_bounds : stops (small 0 [(1, 0xFFFFFFFF)] []) 0x00008183 (.memoryBoundsFault 0xFFFFFFFF 1 .load) = true := by decide
theorem test_lh_out_of_bounds : stops (small 0 [(1, 0x00000FFF)] []) 0x00009183 (.memoryBoundsFault 0xFFF 2 .load) = true := by decide
theorem test_lbu_out_of_bounds : stops (small 0 [(1, 0x00001000)] []) 0x0000C183 (.memoryBoundsFault 0x1000 1 .load) = true := by decide
theorem test_lhu_out_of_bounds : stops (small 0 [(1, 0x00000FFF)] []) 0x0000D183 (.memoryBoundsFault 0xFFF 2 .load) = true := by decide

/-! V6, V7 -/
theorem test_sb_truncates : goes (machine 0x1000 [(1, 0x00000104), (2, 0x80C3A5F1)] []) 0xFE208E23 (fun t => Memory.read t.mem 0x100 == 0xF1 && Memory.read t.mem 0x101 == 0x00 && Memory.read t.mem 0x102 == 0x00 && Memory.read t.mem 0x103 == 0x00 && t.pc == 0x1004) = true := by decide
theorem test_sh_misaligned : goes (machine 0x1000 [(1, 0x00000104), (2, 0x80C3A5F1)] []) 0xFE209FA3 (fun t => Memory.read t.mem 0x100 == 0x00 && Memory.read t.mem 0x101 == 0x00 && Memory.read t.mem 0x102 == 0x00 && Memory.read t.mem 0x103 == 0xF1 && Memory.read t.mem 0x104 == 0xA5 && Memory.read t.mem 0x105 == 0x00 && t.pc == 0x1004) = true := by decide
theorem test_sw_little_endian : goes (machine 0x1000 [(1, 0x00000104), (2, 0x80C3A5F1)] []) 0xFE20AE23 (fun t => Memory.read t.mem 0x100 == 0xF1 && Memory.read t.mem 0x101 == 0xA5 && Memory.read t.mem 0x102 == 0xC3 && Memory.read t.mem 0x103 == 0x80 && Memory.read t.mem 0x104 == 0x00 && t.pc == 0x1004) = true := by decide
theorem test_sb_out_of_bounds : stops (small 0 [(1, 0x00001000), (2, 0xAABBCCDD)] []) 0x00208023 (.memoryBoundsFault 0x1000 1 .store) = true := by decide
theorem test_sh_out_of_bounds : stops (small 0 [(1, 0x00000FFF), (2, 0xAABBCCDD)] []) 0x00209023 (.memoryBoundsFault 0xFFF 2 .store) = true := by decide
theorem test_sw_out_of_bounds : stops (small 0 [(1, 0x00000FFD), (2, 0xAABBCCDD)] []) 0x0020A023 (.memoryBoundsFault 0xFFD 4 .store) = true := by decide

/-! V7: unrecognised widths -/
theorem test_load_width3 : goes (machine 0x1000 [(1, 0xFFFFFFFF), (3, 9)] []) 0x0000B183
    (fun t => t.readReg 3 == 9 && t.pc == 0x1004 && t.diag == [.unrecognizedWidth 0x1000 0x0000B183]) = true := by decide
theorem test_load_width6 : goes (machine 0x1000 [(1, 0xFFFFFFFF), (3, 9)] []) 0x0000E183
    (fun t => t.readReg 3 == 9 && t.pc == 0x1004 && t.diag == [.unrecognizedWidth 0x1000 0x0000E183]) = true := by decide
theorem test_load_width7 : goes (machine 0x1000 [(1, 0xFFFFFFFF), (3, 9)] []) 0x0000F183
    (fun t => t.readReg 3 == 9 && t.pc == 0x1004 && t.diag == [.unrecognizedWidth 0x1000 0x0000F183]) = true := by decide
theorem test_store_width3 : goes (machine 0x1000 [(1, 0xFFFFFFFF), (3, 9)] []) 0x0020B023
    (fun t => t.readReg 3 == 9 && t.pc == 0x1004 && t.diag == [.unrecognizedWidth 0x1000 0x0020B023]) = true := by decide
theorem test_store_width4 : goes (machine 0x1000 [(1, 0xFFFFFFFF), (3, 9)] []) 0x0020C023
    (fun t => t.readReg 3 == 9 && t.pc == 0x1004 && t.diag == [.unrecognizedWidth 0x1000 0x0020C023]) = true := by decide
theorem test_store_width5 : goes (machine 0x1000 [(1, 0xFFFFFFFF), (3, 9)] []) 0x0020D023
    (fun t => t.readReg 3 == 9 && t.pc == 0x1004 && t.diag == [.unrecognizedWidth 0x1000 0x0020D023]) = true := by decide
theorem test_store_width6 : goes (machine 0x1000 [(1, 0xFFFFFFFF), (3, 9)] []) 0x0020E023
    (fun t => t.readReg 3 == 9 && t.pc == 0x1004 && t.diag == [.unrecognizedWidth 0x1000 0x0020E023]) = true := by decide
theorem test_store_width7 : goes (machine 0x1000 [(1, 0xFFFFFFFF), (3, 9)] []) 0x0020F023
    (fun t => t.readReg 3 == 9 && t.pc == 0x1004 && t.diag == [.unrecognizedWidth 0x1000 0x0020F023]) = true := by decide

/-! V8 -/
theorem test_beq_taken : goes (machine 0x1000 [(1, 0x00000007), (2, 0x00000007)] []) 0x00208863 (fun t => t.pc == 0x1010) = true := by decide
theorem test_beq_not_taken : goes (machine 0x1000 [(1, 0x00000007), (2, 0x00000008)] []) 0x00208863 (fun t => t.pc == 0x1004) = true := by decide
theorem test_bne_taken : goes (machine 0x1000 [(1, 0x00000001), (2, 0x00000000)] []) 0xFE209CE3 (fun t => t.pc == 0xFF8) = true := by decide
theorem test_bne_not_taken : goes (machine 0x1000 [(1, 0x00000007), (2, 0x00000007)] []) 0xFE209CE3 (fun t => t.pc == 0x1004) = true := by decide
theorem test_blt_overflow_pair : goes (machine 0x1000 [(1, 0x80000000), (2, 0x7FFFFFFF)] []) 0x0020C863 (fun t => t.pc == 0x1010) = true := by decide
theorem test_blt_not_taken : goes (machine 0x1000 [(1, 0x00000001), (2, 0xFFFFFFFF)] []) 0x0020C863 (fun t => t.pc == 0x1004) = true := by decide
theorem test_bge_equal : goes (machine 0x1000 [(1, 0x00000007), (2, 0x00000007)] []) 0x0020D863 (fun t => t.pc == 0x1010) = true := by decide
theorem test_bge_not_taken : goes (machine 0x1000 [(1, 0x80000000), (2, 0x7FFFFFFF)] []) 0x0020D863 (fun t => t.pc == 0x1004) = true := by decide
theorem test_bltu_taken : goes (machine 0x1000 [(1, 0x00000001), (2, 0xFFFFFFFF)] []) 0x0020E863 (fun t => t.pc == 0x1010) = true := by decide
theorem test_bltu_not_taken : goes (machine 0x1000 [(1, 0xFFFFFFFF), (2, 0x00000001)] []) 0x0020E863 (fun t => t.pc == 0x1004) = true := by decide
theorem test_bgeu_taken : goes (machine 0x1000 [(1, 0xFFFFFFFF), (2, 0x00000001)] []) 0x0020F863 (fun t => t.pc == 0x1010) = true := by decide
theorem test_bgeu_not_taken : goes (machine 0x1000 [(1, 0x00000001), (2, 0xFFFFFFFF)] []) 0x0020F863 (fun t => t.pc == 0x1004) = true := by decide

/-! V9, V10 -/
theorem test_lui : goes (machine 0x1000 [] []) 0x123452B7 (fun t => t.readReg 5 == 0x12345000 && t.pc == 0x1004) = true := by decide
theorem test_auipc_own_address : goes (machine 0x1000 [] []) 0x00000297 (fun t => t.readReg 5 == 0x1000) = true := by decide
theorem test_auipc_wraps : goes (machine 0x1000 [] []) 0xFFFFF297 (fun t => t.readReg 5 == 0) = true := by decide
theorem test_jal_link_and_target : goes (machine 0x1000 [] []) 0x001000EF (fun t => t.readReg 1 == 0x1004 && t.pc == 0x1800) = true := by decide
theorem test_jal_no_link : goes (machine 0x1000 [] []) 0xFFDFF06F (fun t => t.readReg 0 == 0 && t.pc == 0xFFC) = true := by decide
theorem test_jalr_source_is_destination : goes (machine 0x1000 [(1, 0x00002001)] []) 0x000080E7 (fun t => t.readReg 1 == 0x1004 && t.pc == 0x2000) = true := by decide
theorem test_jalr_wraps : goes (machine 0x1000 [(6, 0xFFFFFFFF)] []) 0x7FF302E7 (fun t => t.readReg 5 == 0x1004 && t.pc == 0x7FE) = true := by decide

/-! V11: with the selectors of `State.reset` (3 exit, 1 write, 2 read, 4 debug) -/
theorem test_ecall_exit : stops (machine 0x1000 [(17, 3), (10, 0xFFFFFFFF)] []) 0x73 (.exit 0xFFFFFFFF) = true := by decide
theorem test_ecall_putchar : goes (machine 0x1000 [(17, 1), (10, 0xFFFFFF0A)] []) 0x73
    (fun t => t.output == [0x0A] && t.readReg 10 == 0xFFFFFF0A && t.pc == 0x1004) = true := by decide
theorem test_ecall_getchar : goes (withInput (machine 0x1000 [(17, 2), (10, 5)] []) [0xFF, 0x0A] false) 0x73
    (fun t => t.readReg 10 == 0xFF && t.input == [0x0A] && t.pc == 0x1004) = true := by decide
theorem test_ecall_getchar_exhausted : goes (machine 0x1000 [(17, 2), (10, 5)] []) 0x73
    (fun t => t.readReg 10 == 0xFFFFFFFF && t.pc == 0x1004) = true := by decide
theorem test_ecall_debug : goes (machine 0x1000 [(17, 4), (10, 7)] []) 0x73
    (fun t => t.diag == [.debugPrint 7] && t.output == [] && t.pc == 0x1004) = true := by decide
theorem test_ecall_unknown : goes (machine 0x1000 [(17, 93), (10, 7)] []) 0x73
    (fun t => t.diag == [.unknownSyscall 0x1000 93] && t.readReg 10 == 7 && t.pc == 0x1004) = true := by decide
theorem test_ebreak : stops (machine 0x1000 [(5, 1)] []) 0x001012F3 .breakpoint = true := by decide
theorem test_system_nop_rdcycle : goes (machine 0x1000 [(10, 0x77)] []) 0xC0002573
    (fun t => t.readReg 10 == 0x77 && t.pc == 0x1004) = true := by decide
theorem test_system_nop_mret : goes (machine 0x1000 [] []) 0x30200073 (fun t => t.pc == 0x1004) = true := by decide

/-! V3b, V8, V12: reserved and unsupported words -/
theorem test_reserved_mulh : stops (machine 0x1000 [] []) 0x022091B3 (.reservedEncoding 0x1000 0x022091B3) = true := by decide
theorem test_reserved_mulhsu : stops (machine 0x1000 [] []) 0x0220A1B3 (.reservedEncoding 0x1000 0x0220A1B3) = true := by decide
theorem test_reserved_mulhu : stops (machine 0x1000 [] []) 0x0220B1B3 (.reservedEncoding 0x1000 0x0220B1B3) = true := by decide
theorem test_reserved_branch2 : stops (machine 0x1000 [] []) 0x0020A863 (.reservedEncoding 0x1000 0x0020A863) = true := by decide
theorem test_reserved_branch3 : stops (machine 0x1000 [] []) 0x0020B863 (.reservedEncoding 0x1000 0x0020B863) = true := by decide
theorem test_reserved_funct7 : stops (machine 0x1000 [] []) 0x422081B3 (.reservedEncoding 0x1000 0x422081B3) = true := by decide
theorem test_reserved_shift : stops (machine 0x1000 [] []) 0xFFF0D193 (.reservedEncoding 0x1000 0xFFF0D193) = true := by decide
theorem test_unsupported_fence : stops (machine 0x1000 [] []) 0x0FF0000F (.unsupportedOpcode 0x1000 0x0FF0000F) = true := by decide
theorem test_unsupported_compressed : stops (machine 0x1000 [] []) 0x00008082 (.unsupportedOpcode 0x1000 0x00008082) = true := by decide

/-! V13: fetch checks, and the step ceiling -/
theorem test_fetch_at_the_top : goes (small 0xFFC [] []) 0x13 (fun t => t.pc == 0x1000 && t.executed == 1) = true := by decide
theorem test_fetch_bounds_first : stops (small 0xFFD [] []) 0x13 (.fetchBoundsFault 0xFFD) = true := by decide
theorem test_fetch_bounds_exact : stops (small 0xFFFFFFFE [] []) 0x13 (.fetchBoundsFault 0xFFFFFFFE) = true := by decide
theorem test_fetch_misaligned : stops (small 0xFFA [] []) 0x13 (.misalignedFetch 0xFFA) = true := by decide
theorem test_ceiling_zero :
    stops { machine 0 [] [] with cfg := { Config.default with stepLimit := some 0 } } 0x13 .stepLimit = true := by decide
theorem test_ceiling_not_reached :
    goes { machine 8 [] [] with cfg := { Config.default with stepLimit := some 3 }, executed := 2 } 0x13
      (fun t => t.pc == 12 && t.executed == 3) = true := by decide
/-- From reset with nothing placed, the first step finds the all-zero word (R103). -/
theorem test_reset_empty : after (step State.reset) (fun t => t = State.reset.stop (.unsupportedOpcode 0 0)) = true := by decide

/-! Memory keeps its canonical form -/
theorem test_write_zero_removes : Memory.write (Memory.write [] 5 7) 5 0 = [] := by decide
theorem test_write_sorts : Memory.write (Memory.write [] 9 7) 5 3 = [(5, 3), (9, 7)] := by decide


/-! ### Witnesses: each statement's hypotheses are met, clause by clause, at boundary values where a range is cut

Where a hypothesis is that exec or step answers a next state, the witness computes one. -/

/-- A computed next state is a next state. -/
theorem exists_of_after {r : Result} {f : State → Bool} (h : after r f = true) : ∃ t, r = .next t ∧ f t = true := by
  cases r with
  | next t => exact ⟨t, rfl, h⟩
  | fault _ => cases h
  | refused _ => cases h

theorem witness_DecodeOfEncode :
    (Instr.jal 31 (-1048576)).wf = true ∧ (Instr.bge 0 31 4094).wf = true ∧ (Instr.systemNop 0xFFF).wf = true ∧
    (Instr.systemNop 2).wf = true ∧ (Instr.add 0 31 0).wf = true := by decide

theorem witness_EncodeOfDecode : decodeWord 0x40109193 = .ok (.slli 3 1 1) := by decide

theorem witness_DecodedIsWellFormed : decodeWord 0x80005063 = .ok (.bge 0 0 (-4096)) := by decide

theorem witness_DecodedWordInRow : decodeWord 0xFFF00073 = .ok (.systemNop 0xFFF) := by decide

theorem witness_ImmediateSignBits :
    (12 ≤ 12 ∧ 12 < 32) ∧ (12 ≤ 31 ∧ 31 < 32) ∧ (13 ≤ 13 ∧ 13 < 32) ∧ (21 ≤ 21 ∧ 21 < 32) ∧ (21 ≤ 31 ∧ 31 < 32) := by decide

theorem witness_ImmediateBitPlaces :
    (0 < 12 ∧ 11 < 12) ∧ (0 < 5 ∧ 4 < 5) ∧ (5 ≤ 5 ∧ 11 < 12) ∧ (1 ≤ 1 ∧ 4 < 5) ∧ (5 ≤ 5 ∧ 10 < 11) ∧ (1 ≤ 1 ∧ 10 < 11) ∧
    (12 ≤ 12 ∧ 19 < 20) := by decide

/-- The reset state with one word at pc 0. -/
abbrev fetching (w : Nat) : State := State.reset.withFetchWord 32 w

theorem witness_UnsupportedOpcodeStops_outside :
    Fetches (fetching 0xFFFFFFFF) 0xFFFFFFFF ∧ opcodeOf 0xFFFFFFFF ∉ supportedOpcodes ∧
    Fetches State.reset 0 ∧ opcodeOf 0 ∉ supportedOpcodes := by decide

theorem witness_UnsupportedOpcodeStops_inside :
    Fetches (fetching 0x13) 0x13 ∧ opcodeOf 0x13 ∈ supportedOpcodes ∧ ∃ t, step (fetching 0x13) = .next t :=
  ⟨by decide, by decide, (exists_of_after (f := fun _ => true) (by decide)).imp fun _ h => h.1⟩

theorem witness_ReservedWordsStop :
    (Fetches (fetching 0x042081B3) 0x042081B3 ∧ opcodeOf 0x042081B3 = 0x33 ∧ funct7Of 0x042081B3 = 0x02) ∧
    (Fetches (fetching 0x402091B3) 0x402091B3 ∧ funct7Of 0x402091B3 = 0x20 ∧ funct3Of 0x402091B3 = 1) ∧
    (Fetches (fetching 0x0220B1B3) 0x0220B1B3 ∧ funct7Of 0x0220B1B3 = 0x01 ∧ funct3Of 0x0220B1B3 = 3) ∧
    (Fetches (fetching 0x2010D193) 0x2010D193 ∧ opcodeOf 0x2010D193 = 0x13 ∧ funct3Of 0x2010D193 = 5 ∧
      funct7Of 0x2010D193 = 0x10) ∧
    (Fetches (fetching 0x0020B863) 0x0020B863 ∧ opcodeOf 0x0020B863 = 0x63 ∧ funct3Of 0x0020B863 = 3) := by decide

theorem witness_ReservedRowsStop :
    (0x022091B3 : Word) &&& 0xFE00707F = 0x02001033 ∧
    (0x0220A1B3 : Word) &&& 0xFE00707F = 0x02002033 ∧
    (0x0220B1B3 : Word) &&& 0xFE00707F = 0x02003033 ∧
    (0x0020A863 : Word) &&& 0x0000707F = 0x00002063 ∧
    (0x0020B863 : Word) &&& 0x0000707F = 0x00003063 := by decide

theorem witness_RegisterRegisterResults :
    (0x002081B3 : Word) &&& 0xFE00707F = 0x00000033 ∧
    (0x402081B3 : Word) &&& 0xFE00707F = 0x40000033 ∧
    (0x002091B3 : Word) &&& 0xFE00707F = 0x00001033 ∧
    (0x0020A1B3 : Word) &&& 0xFE00707F = 0x00002033 ∧
    (0x0020B1B3 : Word) &&& 0xFE00707F = 0x00003033 ∧
    (0x0020C1B3 : Word) &&& 0xFE00707F = 0x00004033 ∧
    (0x0020D1B3 : Word) &&& 0xFE00707F = 0x00005033 ∧
    (0x4020D1B3 : Word) &&& 0xFE00707F = 0x40005033 ∧
    (0x0020E1B3 : Word) &&& 0xFE00707F = 0x00006033 ∧
    (0x0020F1B3 : Word) &&& 0xFE00707F = 0x00007033 := by decide

theorem witness_MultiplyAndUnsignedDivideResults :
    (0x022081B3 : Word) &&& 0xFE00707F = 0x02000033 ∧
    (0x0220D1B3 : Word) &&& 0xFE00707F = 0x02005033 ∧
    (0x0220F1B3 : Word) &&& 0xFE00707F = 0x02007033 := by decide

theorem witness_SignedDivideResults_words :
    (0x0220C1B3 : Word) &&& 0xFE00707F = 0x02004033 ∧ (0x0220E1B3 : Word) &&& 0xFE00707F = 0x02006033 := by decide

/-- The state of the overflow pair. -/
abbrev overflowing : State := machine 0 [(1, 0x80000000), (2, 0xFFFFFFFF)] []

theorem witness_SignedDivideResults_overflow :
    overflowing.cfg.DecidedOverflow ∧ (3 : RegIdx) ≠ 0 ∧ overflowing.readReg 1 = 0x80000000 ∧
    overflowing.readReg 2 = 0xFFFFFFFF ∧ (∃ t, exec (.div 3 1 2) overflowing = .next t) ∧
    ∃ t, exec (.rem 3 1 2) overflowing = .next t :=
  ⟨by decide, by decide, by decide, by decide, ⟨_, rfl⟩, ⟨_, rfl⟩⟩

/-- The smallest dividend with the divisor next to -1, so just outside the overflow pair; and the pair itself for DIVU, REMU. -/
theorem witness_QuotientRemainderIdentity :
    (let s := machine 0 [(1, 0x80000000), (2, 0xFFFFFFFE)] []
     (3 : RegIdx) ≠ 0 ∧ s.readReg 2 ≠ 0 ∧ ¬ (s.readReg 1 = 0x80000000 ∧ s.readReg 2 = 0xFFFFFFFF)) ∧
    ((3 : RegIdx) ≠ 0 ∧ overflowing.readReg 2 ≠ 0) ∧
    (∃ t u, exec (.div 3 1 2) (machine 0 [(1, 0x80000000), (2, 0xFFFFFFFE)] []) = .next t ∧
      exec (.rem 3 1 2) (machine 0 [(1, 0x80000000), (2, 0xFFFFFFFE)] []) = .next u) ∧
    ∃ t u, exec (.divu 3 1 2) overflowing = .next t ∧ exec (.remu 3 1 2) overflowing = .next u :=
  ⟨by decide, by decide, ⟨_, _, rfl, rfl⟩, ⟨_, _, rfl, rfl⟩⟩

theorem witness_RegisterImmediateResults :
    (0xFFF08193 : Word) &&& 0x0000707F = 0x00000013 ∧
    (0x8000A193 : Word) &&& 0x0000707F = 0x00002013 ∧
    (0x7FF0B193 : Word) &&& 0x0000707F = 0x00003013 ∧
    (0x5550C193 : Word) &&& 0x0000707F = 0x00004013 ∧
    (0x0F00E193 : Word) &&& 0x0000707F = 0x00006013 ∧
    (0xF0F0F193 : Word) &&& 0x0000707F = 0x00007013 ∧
    (0x01F09193 : Word) &&& 0x0000707F = 0x00001013 ∧
    (0x0050D193 : Word) &&& 0xFE00707F = 0x00005013 ∧
    (0x41F0D193 : Word) &&& 0xFE00707F = 0x40005013 := by decide

theorem witness_LoadResults_words :
    (0xFFC08183 : Word) &&& 0x0000707F = 0x00000003 ∧
    (0x00209183 : Word) &&& 0x0000707F = 0x00001003 ∧
    (0xFFD0A183 : Word) &&& 0x0000707F = 0x00002003 ∧
    (0xFFC0C183 : Word) &&& 0x0000707F = 0x00004003 ∧
    (0xFFE0D183 : Word) &&& 0x0000707F = 0x00005003 := by decide

/-- The last address in bounds and the first out of bounds, for each width, with CAP = 0x1000 (R57). -/
theorem witness_LoadResults_bounds :
    (let s := small 0 [(1, 0xFFF), (2, 0xFFE), (3, 0xFFC)] []
     (s.readReg 1 + (0#12).signExtend 32).toNat + 1 ≤ s.cfg.cap ∧ s.cfg.cap < (s.readReg 1 + (1#12).signExtend 32).toNat + 1 ∧
     (s.readReg 2 + (0#12).signExtend 32).toNat + 2 ≤ s.cfg.cap ∧ s.cfg.cap < (s.readReg 2 + (1#12).signExtend 32).toNat + 2 ∧
     (s.readReg 3 + (0#12).signExtend 32).toNat + 4 ≤ s.cfg.cap ∧ s.cfg.cap < (s.readReg 3 + (1#12).signExtend 32).toNat + 4) := by
  decide

theorem witness_StoreResults_words :
    (0x002081A3 : Word) &&& 0x0000707F = 0x00000023 ∧
    (0xFE209FA3 : Word) &&& 0x0000707F = 0x00001023 ∧
    (0xFE20AE23 : Word) &&& 0x0000707F = 0x00002023 := by decide

/-- A negative displacement reaches the last bytes; from x0 it is far out of bounds (R170). -/
theorem witness_StoreResults_bounds :
    (let s := small 0 [(1, 0x1000)] []
     (s.readReg 1 + (0xFFF#12).signExtend 32).toNat + 1 ≤ s.cfg.cap ∧
     (s.readReg 1 + (0xFFE#12).signExtend 32).toNat + 2 ≤ s.cfg.cap ∧
     (s.readReg 1 + (0xFFC#12).signExtend 32).toNat + 4 ≤ s.cfg.cap ∧
     s.cfg.cap < (s.readReg 1 + (0#12).signExtend 32).toNat + 1 ∧
     s.cfg.cap < (s.readReg 1 + (0xFFF#12).signExtend 32).toNat + 2 ∧
     s.cfg.cap < (s.readReg 0 + (0xFFC#12).signExtend 32).toNat + 4) := by decide

/-- x2 is stored at 0x104, and a load at 0x104 + k gives `v`: every hypothesis of `StoreThenLoad` is met, and the value is read. -/
def readsBack (st ld : RegIdx → RegIdx → BitVec 12 → Instr) (k : Nat) (v : Word) : Bool :=
  let s := machine 0 [(1, 0x104), (2, 0x80C3A5F1)] []
  s.run == .running && after (exec (st 1 2 0) s) (fun t => t.run == .running &&
    (t.effAddr 1 (BitVec.ofNat 12 k)).toNat == (s.effAddr 1 0).toNat + k &&
    after (exec (ld 4 1 (BitVec.ofNat 12 k)) t) (fun u => u.readReg 4 == v))

/-- 0x80C3A5F1 (its bytes F1 A5 C3 80 are those of V6): each load at the ends of its range of k. -/
theorem witness_StoreThenLoadReturnsBytes_sw :
    (4 : RegIdx) ≠ 0 ∧ readsBack .sw .lw 0 0x80C3A5F1 = true ∧
    readsBack .sw .lh 0 0xFFFFA5F1 = true ∧ readsBack .sw .lh 2 0xFFFF80C3 = true ∧
    readsBack .sw .lhu 0 0x0000A5F1 = true ∧ readsBack .sw .lhu 2 0x000080C3 = true ∧
    readsBack .sw .lb 0 0xFFFFFFF1 = true ∧ readsBack .sw .lb 3 0xFFFFFF80 = true ∧
    readsBack .sw .lbu 0 0x000000F1 = true ∧ readsBack .sw .lbu 3 0x00000080 = true := by decide

theorem witness_StoreThenLoadReturnsBytes_sh_sb :
    readsBack .sh .lh 0 0xFFFFA5F1 = true ∧ readsBack .sh .lhu 0 0x0000A5F1 = true ∧
    readsBack .sh .lb 0 0xFFFFFFF1 = true ∧ readsBack .sh .lb 1 0xFFFFFFA5 = true ∧
    readsBack .sh .lbu 0 0x000000F1 = true ∧ readsBack .sh .lbu 1 0x000000A5 = true ∧
    readsBack .sb .lb 0 0xFFFFFFF1 = true ∧ readsBack .sb .lbu 0 0x000000F1 = true := by decide

theorem witness_UnrecognizedWidthsReport :
    (0x0000B183 : Word) &&& 0x0000707F = 0x00003003 ∧
    (0x0000E183 : Word) &&& 0x0000707F = 0x00006003 ∧
    (0x0000F183 : Word) &&& 0x0000707F = 0x00007003 ∧
    (0x0020B023 : Word) &&& 0x0000707F = 0x00003023 ∧
    (0x0020C023 : Word) &&& 0x0000707F = 0x00004023 ∧
    (0x0020D023 : Word) &&& 0x0000707F = 0x00005023 ∧
    (0x0020E023 : Word) &&& 0x0000707F = 0x00006023 ∧
    (0x0020F023 : Word) &&& 0x0000707F = 0x00007023 := by decide

theorem witness_BranchResults_words :
    (0x00208863 : Word) &&& 0x0000707F = 0x00000063 ∧
    (0xFE209CE3 : Word) &&& 0x0000707F = 0x00001063 ∧
    (0x0020C863 : Word) &&& 0x0000707F = 0x00004063 ∧
    (0x80005063 : Word) &&& 0x0000707F = 0x00005063 ∧
    (0x0020E863 : Word) &&& 0x0000707F = 0x00006063 ∧
    (0x7E007FE3 : Word) &&& 0x0000707F = 0x00007063 := by decide

/-- Equal operands, and the signed extremes, on either side of each condition. -/
theorem witness_BranchResults_conditions :
    (let s := machine 0 [(1, 0x80000000), (2, 0x7FFFFFFF)] []
     s.readReg 1 = s.readReg 1 ∧ ¬ s.readReg 1 = s.readReg 2 ∧ s.readReg 1 ≠ s.readReg 2 ∧ ¬ s.readReg 1 ≠ s.readReg 1 ∧
     (s.readReg 1).toInt < (s.readReg 2).toInt ∧ ¬ (s.readReg 1).toInt < (s.readReg 1).toInt ∧
     (s.readReg 1).toInt ≥ (s.readReg 1).toInt ∧ ¬ (s.readReg 1).toInt ≥ (s.readReg 2).toInt ∧
     (s.readReg 2).toNat < (s.readReg 1).toNat ∧ ¬ (s.readReg 1).toNat < (s.readReg 1).toNat ∧
     (s.readReg 1).toNat ≥ (s.readReg 1).toNat ∧ ¬ (s.readReg 2).toNat ≥ (s.readReg 1).toNat) := by decide

theorem witness_UpperImmediateResults :
    (0x123452B7 : Word) &&& 0x0000007F = 0x00000037 ∧ (0xFFFFF297 : Word) &&& 0x0000007F = 0x00000017 := by decide

theorem witness_JumpResults :
    (0x001000EF : Word) &&& 0x0000007F = 0x0000006F ∧ (0x0000D0E7 : Word) &&& 0x0000007F = 0x00000067 := by decide

theorem witness_ExitServiceStops :
    (0x00001073 : Word) &&& 0xFFF0007F = 0x00000073 ∧
    (machine 0 [(17, 3)] []).readReg 17 = (machine 0 [(17, 3)] []).cfg.sysExit := by decide

theorem witness_PutcharServiceWrites :
    (machine 0 [(17, 1)] []).cfg.WF ∧ (machine 0 [(17, 1)] []).readReg 17 = (machine 0 [(17, 1)] []).cfg.sysPutchar := by decide

/-- A core about to read a character. -/
abbrev reading (input : List Byte) (ended : Bool) : State :=
  withInput ((machine 0 [(17, 2)] []).withFetchWord 32 0x73) input ended

theorem witness_GetcharServiceReads :
    ((reading [0xFF] false).cfg.WF ∧ (reading [0xFF] false).readReg 17 = (reading [0xFF] false).cfg.sysGetchar ∧
      (reading [0xFF] false).input = 0xFF :: []) ∧
    ((reading [] true).cfg.WF ∧ (reading [] true).readReg 17 = (reading [] true).cfg.sysGetchar ∧
      (reading [] true).input = [] ∧ (reading [] true).inputEnded = true) ∧
    (reading [] false).cfg.WF ∧ Waits (reading [] false) := by decide

theorem witness_DebugServiceRecords :
    (machine 0 [(17, 4)] []).cfg.WF ∧ (machine 0 [(17, 4)] []).readReg 17 = (machine 0 [(17, 4)] []).cfg.sysDebug := by decide

theorem witness_UnknownSelectorReports :
    (let s := machine 0 [(17, 0x103)] []
     s.readReg 17 ≠ s.cfg.sysExit ∧ s.readReg 17 ≠ s.cfg.sysPutchar ∧ s.readReg 17 ≠ s.cfg.sysGetchar ∧
     s.readReg 17 ≠ s.cfg.sysDebug) := by decide

theorem witness_BreakpointStops :
    (0x001012F3 : Word) &&& 0xFFF0007F = 0x00100073 ∧ State.reset.run = .running ∧
    after (exec .ebreak State.reset) (fun t => t.run == .stopped .breakpoint) = true := by decide

/-- The first and the last immediate of the SYSTEM no-op. -/
theorem witness_SystemNopOnlyAdvances :
    ((0x00200073 : Word) &&& 0x0000007F = 0x00000073 ∧ immIOf 0x00200073 ≠ 0 ∧ immIOf 0x00200073 ≠ 1) ∧
    ((0xFFF00073 : Word) &&& 0x0000007F = 0x00000073 ∧ immIOf 0xFFF00073 ≠ 0 ∧ immIOf 0xFFF00073 ≠ 1) := by decide

theorem witness_RegisterFileReadsBack : (1 : RegIdx) ≠ 0 ∧ (31 : RegIdx) ≠ 0 ∧ (0 : RegIdx) ≠ 1 ∧ (31 : RegIdx) ≠ 30 := by decide

/-- The last access in bounds and the first out of bounds, for each width. -/
theorem witness_MemoryPrimitives :
    (let s := small 0 [] []
     ((0xFFF : Word).toNat + 1 ≤ s.cfg.cap ∧ (0x1000 : Word).toNat + 1 > s.cfg.cap) ∧
     ((0xFFE : Word).toNat + 2 ≤ s.cfg.cap ∧ (0xFFF : Word).toNat + 2 > s.cfg.cap) ∧
     ((0xFFC : Word).toNat + 4 ≤ s.cfg.cap ∧ (0xFFFFFFFE : Word).toNat + 4 > s.cfg.cap)) := by decide

theorem witness_CanonicalMemoriesAreEqual :
    Memory.wf [(5, 3), (9, 7)] ∧ Memory.wf [] := by decide

/-- A store to the very next instruction. -/
theorem witness_StoreIsSeenByNextFetch :
    (let s := machine 0x100 [(1, 0x104), (2, 0x13)] []
     s.run = .running ∧ after (exec (.sw 1 2 0) s) (fun t => t.run == .running) = true ∧ s.effAddr 1 0 = s.pc + 4 ∧
     (s.pc + 4).extractLsb' 0 2 = 0#2) := by decide

theorem witness_StepRunsDecoded :
    (Fetches (fetching 0x13) 0x13 ∧ decodeWord 0x13 = .ok (.addi 0 0 0) ∧
      after (exec (.addi 0 0 0) (fetching 0x13)) (fun t => t.run == .running) = true) ∧
    (Fetches (fetching 0x00100073) 0x00100073 ∧ decodeWord 0x00100073 = .ok .ebreak ∧
      after (exec .ebreak (fetching 0x00100073)) (fun t => t.run == .stopped .breakpoint) = true) ∧
    (Fetches (reading [] false) 0x73 ∧ decodeWord 0x73 = .ok .ecall ∧ Waits (reading [] false)) := by decide

/-- The machine under a ceiling, `executed` cycles completed. -/
abbrev ceiling (limit executed : Nat) : State :=
  { fetching 0x13 with cfg := { Config.default with stepLimit := some limit }, executed := executed }

theorem witness_CeilingStopsBeforeFetch :
    ((ceiling 0 0).run = .running ∧ (ceiling 0 0).cfg.stepLimit = some 0 ∧ (ceiling 0 0).executed = 0) ∧
    ((ceiling 3 3).run = .running ∧ (ceiling 3 3).cfg.stepLimit = some 3 ∧ (ceiling 3 3).executed = 3) ∧
    (Ready (ceiling 3 2) ∧ after (step (ceiling 3 2)) (fun _ => true) = true) := by decide

/-- V13: one pc for each outcome, at the edges where they meet. -/
theorem witness_FetchChecksInOrder :
    (Ready (small 0xFFD [] []) ∧ (small 0xFFD [] []).pc.toNat + 4 > (small 0xFFD [] []).cfg.cap) ∧
    (Ready (small 0xFFA [] []) ∧ (small 0xFFA [] []).pc.toNat + 4 ≤ (small 0xFFA [] []).cfg.cap ∧
      (small 0xFFA [] []).pc.toNat % 4 ≠ 0) ∧
    ((small 0xFFC [] []).pc.toNat + 4 ≤ (small 0xFFC [] []).cfg.cap ∧ (small 0xFFC [] []).pc.toNat % 4 = 0) := by decide

theorem witness_RunEndsExactlyWhenStopped :
    (State.reset.stop .breakpoint).run = .stopped .breakpoint ∧ State.reset.run = .running ∧
    (reading [] false).run = .running ∧ Waits (reading [] false) := by decide

theorem witness_EveryInstructionAnswers :
    Instr.ebreak ≠ .ecall ∧ ¬ Waits State.reset ∧ ¬ Waits (reading [0] false) ∧ ¬ Waits (reading [] true) := by decide

theorem witness_StopsArePrecise :
    after (step (fetching 0x00100073)) (fun t => t.run == .stopped .breakpoint) = true := by decide

/-- One stop of each cause of the execute step. -/
theorem witness_StopsNameTheirInstruction :
    (let s := small 0 [(1, 0xFFD), (17, 3), (10, 42)] []
     s.run = .running ∧
     after (exec .ecall s) (fun t => t.run == .stopped (.exit 42)) = true ∧
     after (exec .ebreak s) (fun t => t.run == .stopped .breakpoint) = true ∧
     after (exec (.reservedMulhu 3 1 2) s) (fun t => t.run == .stopped (.reservedEncoding 0 0x0220B1B3)) = true ∧
     after (exec (.lw 3 1 0) s) (fun t => t.run == .stopped (.memoryBoundsFault 0xFFD 4 .load)) = true ∧
     after (exec (.sw 1 2 0) s) (fun t => t.run == .stopped (.memoryBoundsFault 0xFFD 4 .store)) = true) := by decide

theorem witness_ExitOnlyFromExitService :
    (let s := machine 0 [(17, 3), (10, 42)] []
     s.readReg 17 = s.cfg.sysExit ∧ s.run = .running ∧
     after (exec .ecall s) (fun t => t.run == .stopped (.exit 42)) = true) := by decide

/-- The table of R250, cause by cause. -/
theorem witness_StopCodesAndClasses :
    (State.reset.stop (.exit 42)).run = .stopped (.exit 42) ∧ (State.reset.stop (.exit 42)).exitStatus = some 42 ∧
    State.reset.stopCode = 0 ∧
    [StopCause.exit 42, .breakpoint, .stepLimit, .unsupportedOpcode 0 0, .reservedEncoding 0 0x0220B1B3, .fetchBoundsFault 0xFFD,
      .misalignedFetch 2, .memoryBoundsFault 0xFFD 4 .load].map (fun c => (State.reset.stop c).stopCode) =
      [1, 2, 3, 4, 5, 6, 7, 8] := by decide

theorem witness_ResetTakesTheLaunch : (1 : RegIdx) ≠ 0 ∧ (31 : RegIdx) ≠ 0 := by decide

/-- A launch with something in every input. -/
theorem witness_InvariantAtReset :
    Launch.default.WF ∧
    Launch.WF { Launch.default with image := [(0, 0x13), (0xFFFF, 1)], regInit := Vector.replicate 32 7, input := [0x41] } := by
  decide

/-- A store runs from a state with the invariant. -/
theorem witness_StepKeepsInvariant :
    State.Inv ((machine 0 [(1, 0x104), (2, 7)] []).withFetchWord 32 0x0020A023) ∧
    after (step ((machine 0 [(1, 0x104), (2, 7)] []).withFetchWord 32 0x0020A023)) (fun t => Memory.read t.mem 0x104 == 7) = true :=
  ⟨⟨by decide, by decide, by decide, by decide⟩, by decide⟩

theorem witness_OnlyDestinationChanges :
    (let s := reading [0xFF] false
     destination s .ecall ≠ some 11 ∧ after (exec .ecall s) (fun t => t.readReg 10 == 0xFF) = true) := by decide

/-- The bytes next to a stored halfword, and a form that stores nothing. -/
theorem witness_OnlyStoredBytesChange :
    (let s := machine 0 [(1, 0x104), (2, 0xFFFFFFFF)] []
     (after (exec (.sh 1 2 0) s) (fun _ => true) = true ∧ storedSpan s (.sh 1 2 0) = some (0x104, 2) ∧
       (0x103 < (0x104 : Word).toNat ∨ (0x104 : Word).toNat + 2 ≤ 0x103) ∧
       (0x106 < (0x104 : Word).toNat ∨ (0x104 : Word).toNat + 2 ≤ 0x106)) ∧
     after (exec (.lw 3 1 0) s) (fun _ => true) = true ∧ storedSpan s (.lw 3 1 0) = none) := by decide

theorem witness_StreamsOnlyGrowInOrder :
    (after (exec (.loadWidth3 3 1 0) State.reset) (fun t => t.diag.length == 1) = true ∧ Instr.loadWidth3 3 1 0 ≠ .ecall) ∧
    (after (exec (.sw 1 2 0) State.reset) (fun t => t.diag == []) = true ∧ Instr.sw 1 2 0 ≠ .ecall ∧
      namesNoWidth (.sw 1 2 0) = false) ∧
    after (step (reading [0xFF] false)) (fun t => t.input == []) = true := by decide

theorem witness_StepCountsCompletedCycles :
    after (step (fetching 0x13)) (fun t => t.run == .running && t.executed == 1) = true ∧
    after (step (fetching 0x00100073)) (fun t => t.run != .running && t.executed == 0) = true := by decide

theorem witness_NextPcOfEveryInstruction :
    State.reset.run = .running ∧
    after (exec (.beq 0 0 (-4096)) State.reset) (fun t => t.run == .running && t.pc == 0xFFFFF000) = true ∧
    after (exec .ebreak State.reset) (fun t => t.run != .running && t.pc == 0) = true := by decide

/-- A jump to an address with bit 1 set. -/
theorem witness_PcStaysEven :
    (fetching 0x002000EF).pc.getLsbD 0 = false ∧ after (step (fetching 0x002000EF)) (fun t => t.pc == 2) = true := by decide

theorem witness_HostAnswerEndsTheWait :
    (reading [] false).cfg.WF ∧ Fetches (reading [] false) 0x73 ∧ decodeWord 0x73 = .ok .ecall ∧ Waits (reading [] false) := by
  decide

theorem witness_InvariantOfEveryRun :
    Launch.default.WF ∧ Reaches (State.ofLaunch Launch.default) (State.reset.stop (.unsupportedOpcode 0 0)) :=
  ⟨by decide, .step .start (by
    obtain ⟨t, h, e⟩ := exists_of_after test_reset_empty
    rw [← of_decide_eq_true e]; exact h)⟩

theorem witness_StreamsGrowAlongEveryRun : Reaches State.reset (State.reset.hostSupply 0x41) := .supply _ .start

theorem witness_StopIsTerminal :
    (State.reset.stop .breakpoint).run = .stopped .breakpoint ∧
    Reaches (State.reset.stop .breakpoint) (State.reset.stop .breakpoint).hostEndInput :=
  ⟨rfl, .endInput .start⟩

end Sys2Proof.Tests
end

section
/-! PROOFS. The family 20_memory.md: the little-endian values (R53) and the access primitives (R55, R56). -/

namespace Sys2Proof.Machine

/-! ### Little-endian values as concatenations (R53) -/

theorem Memory.readLE_succ (m : Memory) (a n : Nat) :
    Memory.readLE m a (n + 1) = Memory.readLE m (a + 1) n ++ Memory.read m a := rfl

/-- The recursion of `Memory.readLE` ends with an empty high part, which a concatenation drops. -/
theorem Memory.readLE_one (m : Memory) (a : Nat) : Memory.readLE m a 1 = Memory.read m a :=
  BitVec.zero_width_append _ _

theorem Memory.readLE_two (m : Memory) (a : Nat) :
    Memory.readLE m a 2 = Memory.read m (a + 1) ++ Memory.read m a := by
  rw [Memory.readLE_succ, Memory.readLE_one]

theorem Memory.readLE_four (m : Memory) (a : Nat) :
    Memory.readLE m a 4 =
      Memory.read m (a + 3) ++ Memory.read m (a + 2) ++ Memory.read m (a + 1) ++ Memory.read m a := by
  rw [Memory.readLE_succ, Memory.readLE_succ, Memory.readLE_two]

/-- Settles O31, from the recursion of `Memory.readLE`, whose concatenations already nest to the left as R53 writes them. -/
theorem memoryIsLittleEndian : Obligations.MemoryIsLittleEndian :=
  ⟨Memory.readLE_two, Memory.readLE_four⟩

/-! ### The access primitives (R55, R56) -/

/-- Byte `k` of a stored value reads back at `a + k`. -/
theorem Memory.read_writeLE_inside {width : Nat} (m : Memory) (a : Nat) (v : BitVec width) {n k : Nat} (h : k < n) :
    Memory.read (Memory.writeLE m a v n) (a + k) = v.extractLsb' (8 * k) 8 := by
  have hin : a ≤ a + k ∧ a + k < a + n := by omega
  rw [Memory.read_writeLE, if_pos hin, Nat.add_sub_cancel_left]

/-- A store leaves every byte below and above its own bytes. -/
theorem Memory.read_writeLE_outside {width : Nat} (m : Memory) (a : Nat) (v : BitVec width) {n x : Nat}
    (h : x < a ∨ a + n ≤ x) : Memory.read (Memory.writeLE m a v n) x = Memory.read m x := by
  have hout : ¬ (a ≤ x ∧ x < a + n) := by omega
  rw [Memory.read_writeLE, if_neg hout]

/-- Settles O32, for every number of bytes: which of the two answers is the bounds check's, the bytes of a read are
`Memory.byte_of_readLE`'s, and those of the written memory are inside or outside the store. -/
theorem memoryPrimitives : Obligations.MemoryPrimitives := by
  intro s addr n _
  refine ⟨fun hout => ?outOfBounds, fun hin => ⟨?read, ?write⟩⟩
  case outOfBounds =>
    exact ⟨s.memRead_error addr n hout, fun v => s.memWrite_error addr n v hout⟩
  case read =>
    exact ⟨_, s.memRead_ok addr n hin, fun k hk => Memory.byte_of_readLE s.mem addr.toNat n k hk⟩
  case write =>
    intro v
    exact ⟨_, s.memWrite_ok addr n v hin, fun _ hk => Memory.read_writeLE_inside s.mem addr.toNat v hk,
      fun _ hx => Memory.read_writeLE_outside s.mem addr.toNat v hx⟩

end Sys2Proof.Machine
end

section
/-! PROOFS. The family 30_encoding.md: the bit places of the immediates (R89, R91 to R94) and their signs (R95). Each field of
a word is read bit by bit, and a sign extension keeps the field's bits and repeats its top one. -/

namespace Sys2Proof

/-! ### The bits of a concatenation -/

theorem getLsbD_append_low {v n : Nat} (x : BitVec v) (y : BitVec n) {k : Nat} (h : k < n) :
    (x ++ y).getLsbD k = y.getLsbD k := by
  rw [BitVec.getLsbD_append, if_pos h]

theorem getLsbD_append_high {v n : Nat} (x : BitVec v) (y : BitVec n) {k : Nat} (h : n ≤ k) :
    (x ++ y).getLsbD k = x.getLsbD (k - n) := by
  rw [BitVec.getLsbD_append, if_neg (Nat.not_lt.mpr h)]

/-- Bit `k` of a slice that starts at `lo`, with its place `p` in the word named by the caller. -/
theorem getLsbD_slice {n : Nat} (x : BitVec n) {lo len k p : Nat} (hk : k < len) (hp : lo + k = p) :
    (x.extractLsb' lo len).getLsbD k = x.getLsbD p := by
  rw [BitVec.getLsbD_extractLsb', decide_eq_true hk, Bool.true_and, hp]

/-! ### The bits of the immediate fields -/

section fields
variable (w : Word) {k : Nat}

theorem getLsbD_immIOf (h : k < 12) : (immIOf w).getLsbD k = w.getLsbD (20 + k) :=
  getLsbD_slice w h rfl

theorem getLsbD_immSOf_low (h : k < 5) : (immSOf w).getLsbD k = w.getLsbD (7 + k) := by
  rw [immSOf, getLsbD_append_low _ _ h, getLsbD_slice w h rfl]

theorem getLsbD_immSOf_high (h : 5 ≤ k) (h' : k < 12) : (immSOf w).getLsbD k = w.getLsbD (20 + k) := by
  rw [immSOf, getLsbD_append_high _ _ h]
  exact getLsbD_slice w (by omega) (by omega)

theorem getLsbD_offBOf_zero : (offBOf w).getLsbD 0 = false :=
  getLsbD_append_low _ 0#1 Nat.one_pos

theorem getLsbD_offBOf_low (h : 1 ≤ k) (h' : k < 5) : (offBOf w).getLsbD k = w.getLsbD (7 + k) := by
  simp (disch := omega) only [offBOf, getLsbD_append_low, getLsbD_append_high]
  exact getLsbD_slice w (by omega) (by omega)

theorem getLsbD_offBOf_middle (h : 5 ≤ k) (h' : k < 11) : (offBOf w).getLsbD k = w.getLsbD (20 + k) := by
  simp (disch := omega) only [offBOf, getLsbD_append_low, getLsbD_append_high]
  exact getLsbD_slice w (by omega) (by omega)

theorem getLsbD_offBOf_eleven : (offBOf w).getLsbD 11 = w.getLsbD 7 := by
  simp (disch := omega) only [offBOf, getLsbD_append_low, getLsbD_append_high]
  exact getLsbD_slice w (by omega) (by omega)

theorem getLsbD_offBOf_sign : (offBOf w).getLsbD 12 = w.getLsbD 31 := by
  simp (disch := omega) only [offBOf, getLsbD_append_high]
  exact getLsbD_slice w (by omega) (by omega)

theorem getLsbD_offJOf_zero : (offJOf w).getLsbD 0 = false :=
  getLsbD_append_low _ 0#1 Nat.one_pos

theorem getLsbD_offJOf_low (h : 1 ≤ k) (h' : k < 11) : (offJOf w).getLsbD k = w.getLsbD (20 + k) := by
  simp (disch := omega) only [offJOf, getLsbD_append_low, getLsbD_append_high]
  exact getLsbD_slice w (by omega) (by omega)

theorem getLsbD_offJOf_eleven : (offJOf w).getLsbD 11 = w.getLsbD 20 := by
  simp (disch := omega) only [offJOf, getLsbD_append_low, getLsbD_append_high]
  exact getLsbD_slice w (by omega) (by omega)

theorem getLsbD_offJOf_high (h : 12 ≤ k) (h' : k < 20) : (offJOf w).getLsbD k = w.getLsbD k := by
  simp (disch := omega) only [offJOf, getLsbD_append_low, getLsbD_append_high]
  exact getLsbD_slice w (by omega) (by omega)

theorem getLsbD_offJOf_sign : (offJOf w).getLsbD 20 = w.getLsbD 31 := by
  simp (disch := omega) only [offJOf, getLsbD_append_high]
  exact getLsbD_slice w (by omega) (by omega)

end fields

namespace Machine

/-! ### The bits of the operands -/

/-- Sign extension keeps the field's own bits. -/
theorem getLsbD_signExtend_low {n m k : Nat} (x : BitVec n) (h : k < n) (h' : n ≤ m) :
    (x.signExtend m).getLsbD k = x.getLsbD k := by
  have hm : k < m := by omega
  rw [BitVec.getLsbD_signExtend, decide_eq_true hm, Bool.true_and, if_pos h]

/-- Sign extension repeats the field's top bit, which the caller names `t`. -/
theorem getLsbD_signExtend_high {n m k t : Nat} (x : BitVec n) (h : n ≤ k) (h' : k < m) (ht : n - 1 = t) :
    (x.signExtend m).getLsbD k = x.getLsbD t := by
  rw [BitVec.getLsbD_signExtend, decide_eq_true h', Bool.true_and, if_neg (Nat.not_lt.mpr h),
    BitVec.msb_eq_getLsbD_last, ht]

section operands
variable {k : Nat}

theorem getLsbD_sext12_low (imm : BitVec 12) (h : k < 12) : (sext12 imm).getLsbD k = imm.getLsbD k :=
  getLsbD_signExtend_low imm h (by decide)

theorem getLsbD_sext13_low (off : BitVec 13) (h : k < 13) : (sext13 off).getLsbD k = off.getLsbD k :=
  getLsbD_signExtend_low off h (by decide)

theorem getLsbD_sext21_low (off : BitVec 21) (h : k < 21) : (sext21 off).getLsbD k = off.getLsbD k :=
  getLsbD_signExtend_low off h (by decide)

theorem getLsbD_sext12_high (imm : BitVec 12) (h : 12 ≤ k) (h' : k < 32) :
    (sext12 imm).getLsbD k = imm.getLsbD 11 :=
  getLsbD_signExtend_high imm h h' rfl

theorem getLsbD_sext13_high (off : BitVec 13) (h : 13 ≤ k) (h' : k < 32) :
    (sext13 off).getLsbD k = off.getLsbD 12 :=
  getLsbD_signExtend_high off h h' rfl

theorem getLsbD_sext21_high (off : BitVec 21) (h : 21 ≤ k) (h' : k < 32) :
    (sext21 off).getLsbD k = off.getLsbD 20 :=
  getLsbD_signExtend_high off h h' rfl

end operands

/-- `imm_U` as R93 writes it: the mask keeps `w[31:12]`, and the twelve bits below it are the zeros `upper20` appends. -/
theorem upper20_immUOf (w : Word) : upper20 (immUOf w) = w &&& 0xFFFFF000 := by
  have hmask : (0xFFFFF000 : Word) = BitVec.allOnes 20 ++ 0#12 := rfl
  refine BitVec.eq_of_getLsbD_eq fun k hk => ?_
  rw [BitVec.getLsbD_and, hmask, upper20]
  by_cases h : k < 12
  · rw [getLsbD_append_low _ _ h, getLsbD_append_low _ _ h, BitVec.getLsbD_zero, Bool.and_false]
  · have hl : 12 ≤ k := Nat.not_lt.mp h
    have hu : k - 12 < 20 := by omega
    rw [getLsbD_append_high _ _ hl, getLsbD_append_high _ _ hl, immUOf,
      getLsbD_slice w hu (Nat.add_sub_cancel' hl), BitVec.getLsbD_allOnes, decide_eq_true hu, Bool.and_true]

/-- Settles O7: below its sign the extended immediate has the field's bits, and those are the word's by the format's layout. -/
theorem immediateBitPlaces : Obligations.ImmediateBitPlaces := by
  refine ⟨?immI, ?immSLow, ?immSHigh, ?immBZero, ?immBLow, ?immBMiddle, ?immBEleven, ?immBSign, upper20_immUOf,
    ?immJZero, ?immJLow, ?immJEleven, ?immJHigh, ?immJSign⟩
  case immI => exact fun w k h => by rw [getLsbD_sext12_low _ h, getLsbD_immIOf w h]
  case immSLow => exact fun w k h => by rw [getLsbD_sext12_low _ (by omega), getLsbD_immSOf_low w h]
  case immSHigh => exact fun w k h h' => by rw [getLsbD_sext12_low _ h', getLsbD_immSOf_high w h h']
  case immBZero => exact fun w => by rw [getLsbD_sext13_low _ (by decide), getLsbD_offBOf_zero]
  case immBLow => exact fun w k h h' => by rw [getLsbD_sext13_low _ (by omega), getLsbD_offBOf_low w h h']
  case immBMiddle => exact fun w k h h' => by rw [getLsbD_sext13_low _ (by omega), getLsbD_offBOf_middle w h h']
  case immBEleven => exact fun w => by rw [getLsbD_sext13_low _ (by decide), getLsbD_offBOf_eleven]
  case immBSign => exact fun w => by rw [getLsbD_sext13_low _ (by decide), getLsbD_offBOf_sign]
  case immJZero => exact fun w => by rw [getLsbD_sext21_low _ (by decide), getLsbD_offJOf_zero]
  case immJLow => exact fun w k h h' => by rw [getLsbD_sext21_low _ (by omega), getLsbD_offJOf_low w h h']
  case immJEleven => exact fun w => by rw [getLsbD_sext21_low _ (by decide), getLsbD_offJOf_eleven]
  case immJHigh => exact fun w k h h' => by rw [getLsbD_sext21_low _ (by omega), getLsbD_offJOf_high w h h']
  case immJSign => exact fun w => by rw [getLsbD_sext21_low _ (by decide), getLsbD_offJOf_sign]

/-- Settles O6: the bits above the field are its top bit, and in all four formats that bit is `w[31]`. -/
theorem immediateSignBits : Obligations.ImmediateSignBits := by
  refine ⟨?immI, ?immS, ?immB, ?immJ, ?signI, ?signS⟩
  case immI => exact fun w k h h' => getLsbD_sext12_high _ h h'
  case immS => exact fun w k h h' => getLsbD_sext12_high _ h h'
  case immB => exact fun w k h h' => by rw [getLsbD_sext13_high _ h h', getLsbD_offBOf_sign]
  case immJ => exact fun w k h h' => by rw [getLsbD_sext21_high _ h h', getLsbD_offJOf_sign]
  case signI => exact fun w => getLsbD_immIOf w (by decide)
  case signS => exact fun w => getLsbD_immSOf_high w (by decide) (by decide)

end Machine
end Sys2Proof
end

section
/-! PROOFS. The family 40_op_register.md: the ten register-register instructions (R120 to R130). Each row is its (funct7, funct3)
pair in the decoder, `registerOp` with its ALU operation in `exec`, and the rule's arithmetic for that operation. -/

namespace Sys2Proof

/-! ### The fields of a word that matches a row -/

section ofMatch
variable {w mask pattern : Word} (h : w &&& mask = pattern)
include h

theorem opcodeOf_of_match (hm : opcodeOf mask = BitVec.allOnes 7) : opcodeOf w = opcodeOf pattern :=
  slice_of_match h 0 7 hm

theorem funct3Of_of_match (hm : funct3Of mask = BitVec.allOnes 3) : funct3Of w = funct3Of pattern :=
  slice_of_match h 12 3 hm

theorem funct7Of_of_match (hm : funct7Of mask = BitVec.allOnes 7) : funct7Of w = funct7Of pattern :=
  slice_of_match h 25 7 hm

end ofMatch

/-- A row of opcode 0x33 decodes as the second level answers for its (funct7, funct3) pair (R96, R97). -/
theorem decodeWord_of_registerMatch {w pattern : Word} {f7 : BitVec 7} {f3 : BitVec 3} {i : Instr}
    (h : w &&& 0xFE00707F = pattern) (hop : opcodeOf pattern = 0x33#7) (h7 : funct7Of pattern = f7)
    (h3 : funct3Of pattern = f3) (hd : funct7Of w = f7 → funct3Of w = f3 → decodeRegister w = .ok i) :
    decodeWord w = .ok i := by
  have ho : opcodeOf w = 0x33#7 := (opcodeOf_of_match h rfl).trans hop
  rw [decodeWord, if_pos ho]
  exact hd ((funct7Of_of_match h rfl).trans h7) ((funct3Of_of_match h rfl).trans h3)

namespace Machine

open Sys2Proof.Claims

/-! ### Writeback (R22, R37) -/

/-- A register write followed by a move of pc changes what `WritesReg` allows and nothing else. -/
theorem writesReg_writeReg_setPc (s : State) (rd : RegIdx) (v next : Word) :
    WritesReg s ((s.writeReg rd v).setPc next) rd v next where
  result := s.writeReg_readReg_self rd v
  zero := State.readReg_zero _
  otherRegs r hr := s.writeReg_readReg_other rd r v hr
  pc := rfl
  bytes _ := rfl
  rest := ⟨rfl, rfl, rfl, rfl, rfl, rfl, rfl⟩

/-- Writeback of a result and the fall-through. -/
theorem finish_writesReg (rd : RegIdx) (v : Word) (s : State) :
    ∃ t, finish rd v s = .next t ∧ WritesReg s t rd v (s.pc + 4) :=
  ⟨_, rfl, writesReg_writeReg_setPc s rd v (s.pc + 4)⟩

/-! ### The shifts as arithmetic (R123, R127, R128) -/

/-- The five bits a shift consults are the operand modulo 32. -/
theorem shiftAmount_eq (b : Word) : shiftAmount b = b.toNat % 32 := by
  simp [shiftAmount]

theorem shiftLeft_eq_ofNat (a : Word) (n : Nat) : a <<< n = BitVec.ofNat 32 (a.toNat * 2 ^ n) :=
  BitVec.eq_of_toNat_eq (by rw [BitVec.toNat_shiftLeft, BitVec.toNat_ofNat, Nat.shiftLeft_eq])

theorem ushiftRight_eq_ofNat (a : Word) (n : Nat) : a >>> n = BitVec.ofNat 32 (a.toNat / 2 ^ n) := by
  rw [← Nat.shiftRight_eq_div_pow, ← BitVec.toNat_ushiftRight, BitVec.ofNat_toNat, BitVec.setWidth_eq]

theorem sshiftRight_eq_ofInt (a : Word) (n : Nat) : a.sshiftRight n = BitVec.ofInt 32 (a.toInt / 2 ^ n) := by
  rw [BitVec.sshiftRight, Int.shiftRight_eq_div_pow, Nat.cast_pow, Nat.cast_ofNat]

theorem aluShiftLeft_eq (a b : Word) : aluShiftLeft a b = BitVec.ofNat 32 (a.toNat * 2 ^ (b.toNat % 32)) := by
  rw [aluShiftLeft, shiftLeft_eq_ofNat, shiftAmount_eq]

theorem aluShiftRightLogical_eq (a b : Word) :
    aluShiftRightLogical a b = BitVec.ofNat 32 (a.toNat / 2 ^ (b.toNat % 32)) := by
  rw [aluShiftRightLogical, ushiftRight_eq_ofNat, shiftAmount_eq]

theorem aluShiftRightArithmetic_eq (a b : Word) :
    aluShiftRightArithmetic a b = BitVec.ofInt 32 (a.toInt / 2 ^ (b.toNat % 32)) := by
  rw [aluShiftRightArithmetic, sshiftRight_eq_ofInt, shiftAmount_eq]

/-! ### The rows -/

/-- What makes a register-register row (R120): its place in the decoder, `registerOp` as its meaning, and the value of its ALU
operation. -/
theorem registerRow_of_registerOp {pattern : Word} {mk : RegIdx → RegIdx → RegIdx → Instr} {value : Word → Word → Word}
    (f7 : BitVec 7) (f3 : BitVec 3) (op : Word → Word → Word)
    (hop : opcodeOf pattern = 0x33#7) (h7 : funct7Of pattern = f7) (h3 : funct3Of pattern = f3)
    (hd : ∀ w, funct7Of w = f7 → funct3Of w = f3 → decodeRegister w = .ok (mk (rdOf w) (rs1Of w) (rs2Of w)))
    (hexec : (fun rd rs1 rs2 => exec (mk rd rs1 rs2)) = registerOp op) (hval : op = value) :
    RegisterRow pattern mk value := by
  subst hval
  refine ⟨fun w h => decodeWord_of_registerMatch h hop h7 h3 (hd w), fun s rd rs1 rs2 => ?_⟩
  have hmeaning : exec (mk rd rs1 rs2) s = registerOp op rd rs1 rs2 s := congrFun (congrFun₃ hexec rd rs1 rs2) s
  rw [hmeaning]
  exact finish_writesReg rd _ s

/-- Settles O11 with one line per row: its funct7 and funct3, its ALU operation, and the value of that operation, which needs
arithmetic for the three shifts only. The goals left are the decoder's: each pair leads the second level to its own arm (R97). -/
theorem registerRegisterResults : Obligations.RegisterRegisterResults := by
  refine ⟨registerRow_of_registerOp 0x00 0 aluAdd rfl rfl rfl ?_ rfl rfl,
    registerRow_of_registerOp 0x20 0 aluSub rfl rfl rfl ?_ rfl rfl,
    registerRow_of_registerOp 0x00 1 aluShiftLeft rfl rfl rfl ?_ rfl (funext₂ aluShiftLeft_eq),
    registerRow_of_registerOp 0x00 2 aluSetLessThan rfl rfl rfl ?_ rfl rfl,
    registerRow_of_registerOp 0x00 3 aluSetLessThanUnsigned rfl rfl rfl ?_ rfl rfl,
    registerRow_of_registerOp 0x00 4 aluXor rfl rfl rfl ?_ rfl rfl,
    registerRow_of_registerOp 0x00 5 aluShiftRightLogical rfl rfl rfl ?_ rfl (funext₂ aluShiftRightLogical_eq),
    registerRow_of_registerOp 0x20 5 aluShiftRightArithmetic rfl rfl rfl ?_ rfl (funext₂ aluShiftRightArithmetic_eq),
    registerRow_of_registerOp 0x00 6 aluOr rfl rfl rfl ?_ rfl rfl,
    registerRow_of_registerOp 0x00 7 aluAnd rfl rfl rfl ?_ rfl rfl⟩
  all_goals exact fun w h7 h3 => by simp [decodeRegister, h7, h3]

end Machine
end Sys2Proof
end

section
/-! PROOFS. The family 41_op_muldiv.md: MUL, DIVU and REMU (R141, R143, R145). Each is a register-register row, and its ALU
operation is the rule's arithmetic on the natural numbers the operands denote. -/

namespace Sys2Proof.Machine

/-! ### The unsigned operations as arithmetic -/

/-- The product modulo 2^32 is the low 32 bits of the natural product (R141). -/
theorem aluMul_eq (a b : Word) : aluMul a b = BitVec.ofNat 32 (a.toNat * b.toNat) :=
  BitVec.mul_def

/-- A divisor is the zero Word exactly when the natural number it denotes is 0. -/
theorem word_eq_zero_iff (b : Word) : b = 0#32 ↔ b.toNat = 0 :=
  BitVec.toNat_eq

theorem aluDivU_eq (a b : Word) :
    aluDivU a b = if b.toNat = 0 then 0 else BitVec.ofNat 32 (a.toNat / b.toNat) := by
  simp only [aluDivU, word_eq_zero_iff]

theorem aluRemU_eq (a b : Word) :
    aluRemU a b = if b.toNat = 0 then 0 else BitVec.ofNat 32 (a.toNat % b.toNat) := by
  simp only [aluRemU, word_eq_zero_iff]

/-- Settles O12 with one line per row: its funct7 and funct3, its ALU operation, and the value of that operation. The goals left
are the decoder's: with funct7 0x01 each funct3 leads the second level to its own arm (R97). -/
theorem multiplyAndUnsignedDivideResults : Obligations.MultiplyAndUnsignedDivideResults := by
  refine ⟨registerRow_of_registerOp 0x01 0 aluMul rfl rfl rfl ?_ rfl (funext₂ aluMul_eq),
    registerRow_of_registerOp 0x01 5 aluDivU rfl rfl rfl ?_ rfl (funext₂ aluDivU_eq),
    registerRow_of_registerOp 0x01 7 aluRemU rfl rfl rfl ?_ rfl (funext₂ aluRemU_eq)⟩
  all_goals exact fun w h7 h3 => by simp [decodeRegister, h7, h3]

end Sys2Proof.Machine
end

section
/-! PROOFS. The family 42_op_immediate.md: the nine register-immediate instructions (R150 to R159). Each row is its funct3 in the
decoder, with funct7 for the right shifts, and `immediateOp` in `exec` with the ALU operation of the register-register instruction
of the same name. -/

namespace Sys2Proof.Machine

open Sys2Proof.Claims

/-! ### The decoder's second level for opcode 0x13 (R98) -/

/-- A row whose mask covers the opcode field and whose pattern has 0x13 there decodes as `decodeImmediate` answers. -/
theorem rowDecodes_of_decodeImmediate {pattern mask : Word} {mk : Word → Instr}
    (hmask : opcodeOf mask = BitVec.allOnes 7) (hop : opcodeOf pattern = 0x13#7)
    (hd : ∀ w, w &&& mask = pattern → decodeImmediate w = .ok (mk w)) : RowDecodes pattern mask mk := by
  intro w h
  have ho : opcodeOf w = 0x13#7 := (opcodeOf_of_match h hmask).trans hop
  have hnot : opcodeOf w ≠ 0x33#7 := by rw [ho]; decide
  rw [decodeWord, if_neg hnot, if_pos ho]
  exact hd w h

/-- For SLLI funct3 decides alone: `w[31:25]` is not consulted (R105, R157). -/
theorem decodeImmediate_slli {w : Word} (h3 : funct3Of w = 1#3) :
    decodeImmediate w = .ok (.slli (rdOf w) (rs1Of w) (shamtOf w)) := by
  simp [decodeImmediate, h3]

theorem decodeImmediate_srli {w : Word} (h3 : funct3Of w = 5#3) (h7 : funct7Of w = 0x00#7) :
    decodeImmediate w = .ok (.srli (rdOf w) (rs1Of w) (shamtOf w)) := by
  simp [decodeImmediate, h3, h7]

theorem decodeImmediate_srai {w : Word} (h3 : funct3Of w = 5#3) (h7 : funct7Of w = 0x20#7) :
    decodeImmediate w = .ok (.srai (rdOf w) (rs1Of w) (shamtOf w)) := by
  simp [decodeImmediate, h3, h7]

/-! ### The shifts by a 5-bit amount (R157 to R159) -/

/-- The amount is 0 to 31 by construction, so the ALU's 5-bit mask changes nothing (R157). -/
theorem shiftAmount_zext5 (n : BitVec 5) : shiftAmount (zext5 n) = n.toNat := by
  rw [shiftAmount_eq, zext5, BitVec.toNat_setWidth_of_le (by decide), Nat.mod_eq_of_lt n.isLt]

theorem aluShiftLeft_zext5 (a : Word) (n : BitVec 5) :
    aluShiftLeft a (zext5 n) = BitVec.ofNat 32 (a.toNat * 2 ^ n.toNat) := by
  rw [aluShiftLeft, shiftAmount_zext5, shiftLeft_eq_ofNat]

theorem aluShiftRightLogical_zext5 (a : Word) (n : BitVec 5) :
    aluShiftRightLogical a (zext5 n) = BitVec.ofNat 32 (a.toNat / 2 ^ n.toNat) := by
  rw [aluShiftRightLogical, shiftAmount_zext5, ushiftRight_eq_ofNat]

theorem aluShiftRightArithmetic_zext5 (a : Word) (n : BitVec 5) :
    aluShiftRightArithmetic a (zext5 n) = BitVec.ofInt 32 (a.toInt / 2 ^ n.toNat) := by
  rw [aluShiftRightArithmetic, shiftAmount_zext5, sshiftRight_eq_ofInt]

/-! ### The rows -/

/-- What the family's instructions do (R150): the ALU's value of x[rs1] and the right operand goes to rd, pc falls through. -/
theorem immediateOp_writesReg (op : Word → Word → Word) (rd rs1 : RegIdx) (right : Word) (s : State) :
    ∃ t, immediateOp op rd rs1 right s = .next t ∧ WritesReg s t rd (op (s.readReg rs1) right) (s.pc + 4) :=
  finish_writesReg rd _ s

/-- What makes a row with a 12-bit immediate (R150): its funct3 in the decoder, and `immediateOp` on the sign-extended
immediate as its meaning. -/
theorem immediateRow_of_immediateOp {pattern : Word} {mk : RegIdx → RegIdx → BitVec 12 → Instr}
    (f3 : BitVec 3) (op : Word → Word → Word) (hop : opcodeOf pattern = 0x13#7) (h3 : funct3Of pattern = f3)
    (hd : ∀ w, funct3Of w = f3 → decodeImmediate w = .ok (mk (rdOf w) (rs1Of w) (immIOf w)))
    (hexec : ∀ rd rs1 imm s, exec (mk rd rs1 imm) s = immediateOp op rd rs1 (sext12 imm) s) :
    ImmediateRow pattern mk op := by
  refine ⟨rowDecodes_of_decodeImmediate rfl hop fun w h => hd w ((funct3Of_of_match h rfl).trans h3),
    fun s rd rs1 imm => ?_⟩
  rw [hexec]
  exact immediateOp_writesReg op rd rs1 (sext12 imm) s

/-- What makes a row of the shift variant (R150): its place in the decoder, `immediateOp` on the zero-extended amount as its
meaning, and the value of its ALU operation there. -/
theorem shiftRow_of_immediateOp {pattern mask : Word} {mk : RegIdx → RegIdx → BitVec 5 → Instr} {value : Word → Nat → Word}
    (op : Word → Word → Word) (hmask : opcodeOf mask = BitVec.allOnes 7) (hop : opcodeOf pattern = 0x13#7)
    (hd : ∀ w, w &&& mask = pattern → decodeImmediate w = .ok (mk (rdOf w) (rs1Of w) (shamtOf w)))
    (hexec : ∀ rd rs1 shamt s, exec (mk rd rs1 shamt) s = immediateOp op rd rs1 (zext5 shamt) s)
    (hval : ∀ a shamt, op a (zext5 shamt) = value a shamt.toNat) :
    ShiftRow pattern mask mk value := by
  refine ⟨rowDecodes_of_decodeImmediate hmask hop hd, fun s rd rs1 shamt => ?_⟩
  rw [hexec, ← hval]
  exact immediateOp_writesReg op rd rs1 (zext5 shamt) s

/-- Settles O15 with one line per row: its funct3 and its ALU operation, whose value needs arithmetic for the three shifts only.
The goals left are the decoder's: each funct3 leads the second level to its own arm (R98). -/
theorem registerImmediateResults : Obligations.RegisterImmediateResults := by
  refine ⟨immediateRow_of_immediateOp 0 aluAdd rfl rfl ?_ fun _ _ _ _ => rfl,
    immediateRow_of_immediateOp 2 aluSetLessThan rfl rfl ?_ fun _ _ _ _ => rfl,
    immediateRow_of_immediateOp 3 aluSetLessThanUnsigned rfl rfl ?_ fun _ _ _ _ => rfl,
    immediateRow_of_immediateOp 4 aluXor rfl rfl ?_ fun _ _ _ _ => rfl,
    immediateRow_of_immediateOp 6 aluOr rfl rfl ?_ fun _ _ _ _ => rfl,
    immediateRow_of_immediateOp 7 aluAnd rfl rfl ?_ fun _ _ _ _ => rfl,
    shiftRow_of_immediateOp aluShiftLeft rfl rfl ?slli (fun _ _ _ _ => rfl) aluShiftLeft_zext5,
    shiftRow_of_immediateOp aluShiftRightLogical rfl rfl ?srli (fun _ _ _ _ => rfl) aluShiftRightLogical_zext5,
    shiftRow_of_immediateOp aluShiftRightArithmetic rfl rfl ?srai (fun _ _ _ _ => rfl) aluShiftRightArithmetic_zext5⟩
  case slli => exact fun w h => decodeImmediate_slli (funct3Of_of_match h rfl)
  case srli => exact fun w h => decodeImmediate_srli (funct3Of_of_match h rfl) (funct7Of_of_match h rfl)
  case srai => exact fun w h => decodeImmediate_srai (funct3Of_of_match h rfl) (funct7Of_of_match h rfl)
  all_goals exact fun w h3 => by simp [decodeImmediate, h3]

end Sys2Proof.Machine
end

section
/-! PROOFS. The family 43_load_store.md: the five loads (R172 to R176) and the three stores (R177 to R179), each its funct3 in the
decoder and `loadOp` or `storeOp` in `exec`; then, for every instruction, the one register it may write and the host streams it
may touch, both read off `EffectOf`, which ties each shape of a next state to the instructions that answer it. -/

namespace Sys2Proof.Machine

open Sys2Proof.Claims

/-! ### The decoder's second level for opcodes 0x03 and 0x23 (R96, R99) -/

theorem decodeWord_of_loadOpcode {w : Word} (ho : opcodeOf w = 0x03#7) : decodeWord w = decodeLoad w := by
  simp [decodeWord, ho]

theorem decodeWord_of_storeOpcode {w : Word} (ho : opcodeOf w = 0x23#7) : decodeWord w = decodeStore w := by
  simp [decodeWord, ho]

/-- A row that fixes the opcode and funct3 decodes as that opcode's second level answers for that funct3. -/
theorem rowDecodes_of_funct3 {pattern : Word} {mk : Word → Instr} {op : BitVec 7} {f3 : BitVec 3} {second : Word → Decoded}
    (hfirst : ∀ {w}, opcodeOf w = op → decodeWord w = second w) (hop : opcodeOf pattern = op) (h3 : funct3Of pattern = f3)
    (hsecond : ∀ w, funct3Of w = f3 → second w = .ok (mk w)) : RowDecodes pattern 0x0000707F mk := by
  intro w h
  rw [hfirst ((opcodeOf_of_match h rfl).trans hop)]
  exact hsecond w ((funct3Of_of_match h rfl).trans h3)

/-! ### Accesses in and out of bounds (R170, R171) -/

theorem takesStop_stop (s : State) (c : StopCause) : TakesStop s (s.stop c) c :=
  ⟨rfl, fun _ => rfl, fun _ => rfl, rfl, rfl, rfl, rfl, rfl, rfl⟩

theorem loadOp_writesReg {n : Nat} {ext : BitVec (8 * n) → Word} {rd rs1 : RegIdx} {imm : BitVec 12} {s : State}
    (h : (s.effAddr rs1 imm).toNat + n ≤ s.cfg.cap) :
    ∃ t, loadOp n ext rd rs1 imm s = .next t ∧
      WritesReg s t rd (ext (Memory.readLE s.mem (s.effAddr rs1 imm).toNat n)) (s.pc + 4) := by
  rw [loadOp_eq, if_pos h]
  exact finish_writesReg rd _ s

theorem loadOp_takesStop {n : Nat} {ext : BitVec (8 * n) → Word} {rd rs1 : RegIdx} {imm : BitVec 12} {s : State}
    (h : s.cfg.cap < (s.effAddr rs1 imm).toNat + n) :
    ∃ t, loadOp n ext rd rs1 imm s = .next t ∧ TakesStop s t (.memoryBoundsFault (s.effAddr rs1 imm) n .load) := by
  rw [loadOp_eq, if_neg (Nat.not_le.mpr h)]
  exact ⟨_, rfl, takesStop_stop s _⟩

/-- The bytes written are those of the register itself: truncating it to the access width drops only bits no byte reads. -/
theorem storeOp_stores {n : Nat} {rs1 rs2 : RegIdx} {imm : BitVec 12} {s : State}
    (h : (s.effAddr rs1 imm).toNat + n ≤ s.cfg.cap) :
    ∃ t, storeOp n rs1 rs2 imm s = .next t ∧ Stores s t (s.effAddr rs1 imm).toNat n (s.readReg rs2) := by
  rw [storeOp_eq, if_pos h]
  exact ⟨_, rfl, {
    regs := fun _ => rfl
    pc := rfl
    stored := fun k hk => (Memory.read_writeLE_inside s.mem _ _ hk).trans (byte_of_truncated n k _ hk)
    outside := fun _ hx => Memory.read_writeLE_outside s.mem _ _ hx
    rest := ⟨rfl, rfl, rfl, rfl, rfl, rfl, rfl⟩ }⟩

theorem storeOp_takesStop {n : Nat} {rs1 rs2 : RegIdx} {imm : BitVec 12} {s : State}
    (h : s.cfg.cap < (s.effAddr rs1 imm).toNat + n) :
    ∃ t, storeOp n rs1 rs2 imm s = .next t ∧ TakesStop s t (.memoryBoundsFault (s.effAddr rs1 imm) n .store) := by
  rw [storeOp_eq, if_neg (Nat.not_le.mpr h)]
  exact ⟨_, rfl, takesStop_stop s _⟩

/-! ### The rows -/

/-- What makes a load row: its funct3 in the decoder, `loadOp` of its width and extension as its meaning, and the extended
little-endian value written as a concatenation of bytes (R53, R171). -/
theorem loadRow_of_loadOp {pattern : Word} {mk : RegIdx → RegIdx → BitVec 12 → Instr} {n : Nat} {value : Memory → Nat → Word}
    (f3 : BitVec 3) (ext : BitVec (8 * n) → Word) (hop : opcodeOf pattern = 0x03#7) (h3 : funct3Of pattern = f3)
    (hd : ∀ w, funct3Of w = f3 → decodeLoad w = .ok (mk (rdOf w) (rs1Of w) (immIOf w)))
    (hexec : ∀ rd rs1 imm s, exec (mk rd rs1 imm) s = loadOp n ext rd rs1 imm s)
    (hval : ∀ m a, ext (Memory.readLE m a n) = value m a) : LoadRow pattern mk n value := by
  refine ⟨rowDecodes_of_funct3 decodeWord_of_loadOpcode hop h3 hd, fun s rd rs1 imm => ?_⟩
  rw [hexec, ← hval]
  exact ⟨loadOp_writesReg, loadOp_takesStop⟩

/-- What makes a store row: its funct3 in the decoder and `storeOp` of its width as its meaning. -/
theorem storeRow_of_storeOp {pattern : Word} {mk : RegIdx → RegIdx → BitVec 12 → Instr} {n : Nat}
    (f3 : BitVec 3) (hop : opcodeOf pattern = 0x23#7) (h3 : funct3Of pattern = f3)
    (hd : ∀ w, funct3Of w = f3 → decodeStore w = .ok (mk (rs1Of w) (rs2Of w) (immSOf w)))
    (hexec : ∀ rs1 rs2 imm s, exec (mk rs1 rs2 imm) s = storeOp n rs1 rs2 imm s) : StoreRow pattern mk n := by
  refine ⟨rowDecodes_of_funct3 decodeWord_of_storeOpcode hop h3 hd, fun s rs1 rs2 imm => ?_⟩
  rw [hexec]
  exact ⟨storeOp_stores, storeOp_takesStop⟩

theorem signFill_readLE_one (m : Memory) (a : Nat) :
    signFill (Memory.readLE m a 1) = (Memory.read m a).signExtend 32 := by
  rw [Memory.readLE_one, signFill]

theorem zeroFill_readLE_one (m : Memory) (a : Nat) :
    zeroFill (Memory.readLE m a 1) = (Memory.read m a).setWidth 32 := by
  rw [Memory.readLE_one, zeroFill]

theorem signFill_readLE_two (m : Memory) (a : Nat) :
    signFill (Memory.readLE m a 2) = (Memory.read m (a + 1) ++ Memory.read m a).signExtend 32 := by
  rw [Memory.readLE_two, signFill]

theorem zeroFill_readLE_two (m : Memory) (a : Nat) :
    zeroFill (Memory.readLE m a 2) = (Memory.read m (a + 1) ++ Memory.read m a).setWidth 32 := by
  rw [Memory.readLE_two, zeroFill]

/-- A word fills the register: neither extension adds a bit (R171, R174). -/
theorem zeroFill_readLE_four (m : Memory) (a : Nat) :
    zeroFill (Memory.readLE m a 4) =
      Memory.read m (a + 3) ++ Memory.read m (a + 2) ++ Memory.read m (a + 1) ++ Memory.read m a := by
  rw [zeroFill, BitVec.setWidth_eq, Memory.readLE_four]

/-- Settles O16 with one line per row: its funct3, its extension and the value of that extension. The goals left are the
decoder's: each funct3 leads the second level to its own arm (R99). -/
theorem loadResults : Obligations.LoadResults := by
  refine ⟨loadRow_of_loadOp 0 signFill rfl rfl ?_ (fun _ _ _ _ => rfl) signFill_readLE_one,
    loadRow_of_loadOp 1 signFill rfl rfl ?_ (fun _ _ _ _ => rfl) signFill_readLE_two,
    loadRow_of_loadOp 2 zeroFill rfl rfl ?_ (fun _ _ _ _ => rfl) zeroFill_readLE_four,
    loadRow_of_loadOp 4 zeroFill rfl rfl ?_ (fun _ _ _ _ => rfl) zeroFill_readLE_one,
    loadRow_of_loadOp 5 zeroFill rfl rfl ?_ (fun _ _ _ _ => rfl) zeroFill_readLE_two⟩
  all_goals exact fun w h3 => by simp [decodeLoad, h3]

/-- Settles O17 with one line per row: its funct3, which also leads the decoder's second level to its own arm (R99). -/
theorem storeResults : Obligations.StoreResults := by
  refine ⟨storeRow_of_storeOp 0 rfl rfl ?_ fun _ _ _ _ => rfl,
    storeRow_of_storeOp 1 rfl rfl ?_ fun _ _ _ _ => rfl,
    storeRow_of_storeOp 2 rfl rfl ?_ fun _ _ _ _ => rfl⟩
  all_goals exact fun w h3 => by simp [decodeStore, h3]

/-! ### The shapes of a next state, tied to the instruction -/

/-- `Effect` with what each shape says of its instruction: the register written is the destination, the bytes stored are the
stored span, a report is an ECALL's or an unrecognised width's, and a character passes for an ECALL only. -/
inductive EffectOf (s : State) (i : Instr) : State → Prop
  | stops (c : StopCause) : EffectOf s i (s.stop c)
  | moves (next : Word) : EffectOf s i (s.setPc next)
  | writes (rd : RegIdx) (v next : Word) (hd : destination s i = some rd) : EffectOf s i ((s.writeReg rd v).setPc next)
  | stores (ea : Word) (n : Nat) (v : BitVec (8 * n)) (hs : storedSpan s i = some (ea, n)) :
      EffectOf s i (s.setMem (Memory.writeLE s.mem ea.toNat v n)).advance
  | reports (d : DiagRecord) (hi : i = .ecall ∨ namesNoWidth i = true) : EffectOf s i (s.report d).advance
  | sends (b : Byte) (hi : i = .ecall) : EffectOf s i (s.putChar b).advance
  | receives (b : Byte) (rest : List Byte) (hi : i = .ecall) (hd : destination s i = some a0) (hin : s.input = b :: rest) :
      EffectOf s i ((s.setInput rest).writeReg a0 (b.setWidth 32)).advance

theorem loadOp_effectOf {i : Instr} {n : Nat} {ext : BitVec (8 * n) → Word} {rd rs1 : RegIdx} {imm : BitVec 12} {s t : State}
    (hd : destination s i = some rd) (h : loadOp n ext rd rs1 imm s = .next t) : EffectOf s i t := by
  rw [loadOp_eq] at h
  split_ifs at h <;> obtain rfl := Host.Outcome.next.inj h
  · exact .writes rd _ _ hd
  · exact .stops _

theorem storeOp_effectOf {i : Instr} {n : Nat} {rs1 rs2 : RegIdx} {imm : BitVec 12} {s t : State}
    (hs : storedSpan s i = some (s.effAddr rs1 imm, n)) (h : storeOp n rs1 rs2 imm s = .next t) : EffectOf s i t := by
  rw [storeOp_eq] at h
  split_ifs at h <;> obtain rfl := Host.Outcome.next.inj h
  · exact .stores _ n _ hs
  · exact .stops _

theorem branchOp_effectOf {i : Instr} {taken : Bool} {off : BitVec 13} {s t : State} (h : branchOp taken off s = .next t) :
    EffectOf s i t := by
  rw [branchOp_eq] at h
  obtain rfl := Host.Outcome.next.inj h
  exact .moves _

theorem destination_ecall_of_getchar {s : State} (h : s.readReg a7 = s.cfg.sysGetchar) : destination s .ecall = some a0 :=
  if_pos h

theorem execEcall_effectOf {s t : State} (h : execEcall s = .next t) : EffectOf s .ecall t := by
  rcases execEcall_cases s with ⟨-, e⟩ | e | ⟨hsel, b, rest, hin, e⟩ | ⟨hsel, -, -, e⟩ | ⟨-, -, -, e⟩ | ⟨d, e⟩ <;>
    rw [e] at h <;> cases h
  case inl => exact .stops _
  case inr.inl => exact .sends _ rfl
  case inr.inr.inl => exact .receives b rest rfl (destination_ecall_of_getchar hsel) hin
  case inr.inr.inr.inl => exact .writes a0 _ _ (destination_ecall_of_getchar hsel)
  case inr.inr.inr.inr.inr => exact .reports d (.inl rfl)

/-- Every next state of an instruction's meaning has one of the shapes that belong to that instruction. -/
theorem exec_effectOf {i : Instr} {s t : State} (h : exec i s = .next t) : EffectOf s i t := by
  cases i
  case ecall => exact execEcall_effectOf h
  case lb | lh | lw | lbu | lhu => exact loadOp_effectOf rfl h
  case sb | sh | sw => exact storeOp_effectOf rfl h
  case beq | bne | blt | bge | bltu | bgeu => exact branchOp_effectOf h
  case ebreak | reservedMulh | reservedMulhsu | reservedMulhu | reservedBranch2 | reservedBranch3 =>
    obtain rfl := Host.Outcome.next.inj h; exact .stops _
  case systemNop => obtain rfl := Host.Outcome.next.inj h; exact .moves _
  case loadWidth3 | loadWidth6 | loadWidth7 | storeWidth3 | storeWidth4 | storeWidth5 | storeWidth6 | storeWidth7 =>
    obtain rfl := Host.Outcome.next.inj h; exact .reports _ (.inr rfl)
  all_goals (obtain rfl := Host.Outcome.next.inj h; exact .writes _ _ _ rfl)

/-! ### The register frame (R22, R107) -/

theorem EffectOf.readReg_eq {i : Instr} {s t : State} (h : EffectOf s i t) {r : RegIdx} (hr : destination s i ≠ some r) :
    t.readReg r = s.readReg r := by
  have hne : ∀ {rd}, destination s i = some rd → r ≠ rd := fun hd e => hr (e ▸ hd)
  cases h with
  | stops | moves | stores | reports | sends => rfl
  | writes rd v _ hd => exact s.writeReg_readReg_other rd r v (hne hd)
  | receives b rest _ hd _ => exact (s.setInput rest).writeReg_readReg_other a0 r _ (hne hd)

/-- Settles O47: x0 reads 0 in every state, and only a shape that writes the destination changes a register. -/
theorem onlyDestinationChanges : Obligations.OnlyDestinationChanges :=
  fun _ _ t h => ⟨t.readReg_zero, fun _ hr => (exec_effectOf h).readReg_eq hr⟩

/-! ### The host streams (R34) -/

theorem EffectOf.charStreams_eq {i : Instr} {s t : State} (h : EffectOf s i t) (hi : i ≠ .ecall) :
    t.output = s.output ∧ t.input = s.input ∧ t.inputEnded = s.inputEnded := by
  cases h with
  | stops | moves | writes | stores | reports => exact ⟨rfl, rfl, rfl⟩
  | sends _ he => exact absurd he hi
  | receives _ _ he => exact absurd he hi

theorem EffectOf.diag_eq {i : Instr} {s t : State} (h : EffectOf s i t) (hi : i ≠ .ecall) (hw : namesNoWidth i = false) :
    t.diag = s.diag := by
  cases h with
  | stops | moves | writes | stores | sends | receives => rfl
  | reports _ he => simp [hi, hw] at he

/-- What one step may do to the host streams: at most one character or record more at the end of each log, at most one character
less at the front of the input, and the host's word on the input's end left alone. -/
abbrev StreamsStep (s t : State) : Prop :=
  (∃ o, t.output = s.output ++ o ∧ o.length ≤ 1) ∧ (∃ c, s.input = c ++ t.input ∧ c.length ≤ 1) ∧
  (∃ d, t.diag = s.diag ++ d ∧ d.length ≤ 1) ∧ t.inputEnded = s.inputEnded

theorem exists_append_self {α : Type} (l : List α) : ∃ x, l = l ++ x ∧ x.length ≤ 1 :=
  ⟨[], (List.append_nil l).symm, Nat.zero_le 1⟩

theorem Effect.streamsStep {s t : State} (h : Effect s t) : StreamsStep s t := by
  have hout := exists_append_self s.output
  have hin : ∃ c, s.input = c ++ s.input ∧ c.length ≤ 1 := ⟨[], rfl, Nat.zero_le 1⟩
  have hdiag := exists_append_self s.diag
  cases h with
  | stops | writes | jumps | branches | falls | stores => exact ⟨hout, hin, hdiag, rfl⟩
  | reports d => exact ⟨hout, hin, ⟨[d], rfl, Nat.le_refl 1⟩, rfl⟩
  | sends b => exact ⟨⟨[b], rfl, Nat.le_refl 1⟩, hin, hdiag, rfl⟩
  | receives b rest hb => exact ⟨hout, ⟨[b], hb, Nat.le_refl 1⟩, hdiag, rfl⟩

/-- A step either stops before its instruction, which is a shape of `Effect` too, or counts the cycle of the instruction's next
state, which touches no stream. -/
theorem step_streamsStep {s t : State} (h : step s = .next t) : StreamsStep s t := by
  obtain ⟨-, ⟨c, rfl⟩ | ⟨w, i, u, -, -, -, hu, rfl⟩⟩ := step_cases h
  · exact (Effect.stops c).streamsStep
  · exact (exec_effect hu).streamsStep

/-- Settles O49: which instruction touches which stream is read off the shapes of `EffectOf`, how a stream changes off those of
`Effect`. -/
theorem streamsOnlyGrowInOrder : Obligations.StreamsOnlyGrowInOrder :=
  ⟨fun _ _ _ h hi => (exec_effectOf h).charStreams_eq hi, fun _ _ _ h hi hw => (exec_effectOf h).diag_eq hi hw,
    fun _ _ h => step_streamsStep h⟩

end Sys2Proof.Machine
end

section
/-! PROOFS. The family 44_branch.md: the six conditional branches (R191 to R196). Each row is its funct3 in the decoder, `branchOp`
on a flag of `Compare` or on its negation in `exec`, and what that flag says of the operands (R190). -/

namespace Sys2Proof.Machine

open Sys2Proof.Claims

/-! ### The decoder's second level for opcode 0x63 (R96, R100) -/

theorem decodeWord_of_branchOpcode {w : Word} (ho : opcodeOf w = 0x63#7) : decodeWord w = decodeBranch w := by
  simp [decodeWord, ho]

/-! ### The flags of `Compare` (R190) -/

theorem aluCompare_eq_iff (a b : Word) : (aluCompare a b).eq = true ↔ a = b := decide_eq_true_iff

theorem aluCompare_lt_iff (a b : Word) : (aluCompare a b).lt = true ↔ a.toInt < b.toInt := decide_eq_true_iff

theorem aluCompare_ltu_iff (a b : Word) : (aluCompare a b).ltu = true ↔ a.toNat < b.toNat := decide_eq_true_iff

theorem aluCompare_not_eq_iff (a b : Word) : (!(aluCompare a b).eq) = true ↔ a ≠ b :=
  Bool.not_iff_not.trans (not_congr (aluCompare_eq_iff a b))

/-- BGE is taken exactly when BLT is not (R194). -/
theorem aluCompare_not_lt_iff (a b : Word) : (!(aluCompare a b).lt) = true ↔ a.toInt ≥ b.toInt :=
  Bool.not_iff_not.trans ((not_congr (aluCompare_lt_iff a b)).trans not_lt)

/-- BGEU is taken exactly when BLTU is not (R196). -/
theorem aluCompare_not_ltu_iff (a b : Word) : (!(aluCompare a b).ltu) = true ↔ a.toNat ≥ b.toNat :=
  Bool.not_iff_not.trans ((not_congr (aluCompare_ltu_iff a b)).trans not_lt)

/-! ### The rows -/

theorem onlyPc_setPc (s : State) (next : Word) : OnlyPc s (s.setPc next) next where
  regs _ := rfl
  pc := rfl
  bytes _ := rfl
  rest := ⟨rfl, rfl, rfl, rfl, rfl, rfl, rfl⟩

/-- Both sides of a branch move pc alone. -/
theorem branchOp_onlyPc (taken : Bool) (off : BitVec 13) (s : State) :
    ∃ t, branchOp taken off s = .next t ∧ (taken = true → OnlyPc s t (s.pc + off.signExtend 32)) ∧
      (¬ taken = true → OnlyPc s t (s.pc + 4)) := by
  refine ⟨_, branchOp_eq taken off s, fun h => ?_, fun h => ?_⟩
  · rw [if_pos h]
    exact onlyPc_setPc s (s.branchTarget off)
  · rw [if_neg h]
    exact onlyPc_setPc s (s.pc + 4)

/-- What makes a branch row: its funct3 in the decoder, `branchOp` on `test` of the flags as its meaning, and what `test` says of
the operands. -/
theorem branchRow_of_branchOp {pattern : Word} {mk : RegIdx → RegIdx → BitVec 13 → Instr} {taken : Word → Word → Prop}
    (f3 : BitVec 3) (test : CompareFlags → Bool) (hop : opcodeOf pattern = 0x63#7) (h3 : funct3Of pattern = f3)
    (hd : ∀ w, funct3Of w = f3 → decodeBranch w = .ok (mk (rs1Of w) (rs2Of w) (offBOf w)))
    (hexec : ∀ rs1 rs2 off s, exec (mk rs1 rs2 off) s = branchOp (test (s.branchFlags rs1 rs2)) off s)
    (htest : ∀ a b, test (aluCompare a b) = true ↔ taken a b) : BranchRow pattern mk taken := by
  refine ⟨rowDecodes_of_funct3 decodeWord_of_branchOpcode hop h3 hd, fun s rs1 rs2 off => ?_⟩
  rw [hexec, ← htest]
  exact branchOp_onlyPc _ off s

/-- Settles O20 with one line per row: its funct3, its flag of `Compare`, and what that flag says of the operands. The goals left
are the decoder's: each funct3 leads the second level to its own arm (R100). -/
theorem branchResults : Obligations.BranchResults := by
  refine ⟨branchRow_of_branchOp 0 (·.eq) rfl rfl ?_ (fun _ _ _ _ => rfl) aluCompare_eq_iff,
    branchRow_of_branchOp 1 (!·.eq) rfl rfl ?_ (fun _ _ _ _ => rfl) aluCompare_not_eq_iff,
    branchRow_of_branchOp 4 (·.lt) rfl rfl ?_ (fun _ _ _ _ => rfl) aluCompare_lt_iff,
    branchRow_of_branchOp 5 (!·.lt) rfl rfl ?_ (fun _ _ _ _ => rfl) aluCompare_not_lt_iff,
    branchRow_of_branchOp 6 (·.ltu) rfl rfl ?_ (fun _ _ _ _ => rfl) aluCompare_ltu_iff,
    branchRow_of_branchOp 7 (!·.ltu) rfl rfl ?_ (fun _ _ _ _ => rfl) aluCompare_not_ltu_iff⟩
  all_goals exact fun w h3 => by simp [decodeBranch, h3]

/-- Settles O1: the statement is about twenty-eight given words and nothing else, so the decoder, run on each, answers it. -/
theorem specWordsDecode : Obligations.SpecWordsDecode := by
  unfold Obligations.SpecWordsDecode
  decide

end Sys2Proof.Machine
end

section
/-! PROOFS. The family 45_upper_immediate.md: LUI and AUIPC (R201, R202). For each the opcode alone decides the row, and its meaning
is the writeback of the ALU's sum with the upper immediate: of 0 for LUI, of the own address for AUIPC. -/

namespace Sys2Proof.Machine

open Sys2Proof.Claims

/-! ### The decoder's first level for opcodes 0x37 and 0x17 (R96, R101) -/

theorem decodeWord_of_luiOpcode {w : Word} (ho : opcodeOf w = 0x37#7) : decodeWord w = .ok (.lui (rdOf w) (immUOf w)) := by
  simp [decodeWord, ho]

theorem decodeWord_of_auipcOpcode {w : Word} (ho : opcodeOf w = 0x17#7) :
    decodeWord w = .ok (.auipc (rdOf w) (immUOf w)) := by
  simp [decodeWord, ho]

/-- A row that fixes the opcode and nothing else decodes as the first level answers for that opcode. -/
theorem rowDecodes_of_opcode {pattern : Word} {mk : Word → Instr} {op : BitVec 7}
    (hfirst : ∀ {w}, opcodeOf w = op → decodeWord w = .ok (mk w)) (hop : opcodeOf pattern = op) :
    RowDecodes pattern 0x0000007F mk :=
  fun _ h => hfirst ((opcodeOf_of_match h rfl).trans hop)

/-! ### The meanings -/

/-- LUI's Add has the left operand 0, so it writes the immediate itself (R201). -/
theorem exec_lui (rd : RegIdx) (imm : BitVec 20) (s : State) : exec (.lui rd imm) s = finish rd (imm ++ 0#12) s :=
  congrArg (finish rd · s) (BitVec.zero_add (imm ++ 0#12))

/-- AUIPC adds to pc as it is before the fall-through: its own address (R202). -/
theorem exec_auipc (rd : RegIdx) (imm : BitVec 20) (s : State) :
    exec (.auipc rd imm) s = finish rd (s.pc + (imm ++ 0#12)) s := rfl

/-- Settles O21: each opcode leads the first level to its own arm, and each meaning is a writeback with the fall-through. -/
theorem upperImmediateResults : Obligations.UpperImmediateResults := by
  refine ⟨rowDecodes_of_opcode decodeWord_of_luiOpcode rfl, rowDecodes_of_opcode decodeWord_of_auipcOpcode rfl,
    fun s rd imm => ?lui, fun s rd imm => ?auipc⟩
  case lui =>
    rw [exec_lui]
    exact finish_writesReg rd (imm ++ 0#12) s
  case auipc =>
    rw [exec_auipc]
    exact finish_writesReg rd (s.pc + (imm ++ 0#12)) s

end Sys2Proof.Machine
end

section
/-! PROOFS. The family 46_jump.md: JAL and JALR (R211, R212). For each the opcode alone decides the row, and its meaning is
`jumpOp`, whose target is an argument and so is read off the state before the link is written (R210). -/

namespace Sys2Proof.Machine

open Sys2Proof.Claims

/-! ### The decoder's first level for opcodes 0x6F and 0x67 (R96, R101) -/

theorem decodeWord_of_jalOpcode {w : Word} (ho : opcodeOf w = 0x6F#7) : decodeWord w = .ok (.jal (rdOf w) (offJOf w)) := by
  simp [decodeWord, ho]

theorem decodeWord_of_jalrOpcode {w : Word} (ho : opcodeOf w = 0x67#7) :
    decodeWord w = .ok (.jalr (rdOf w) (rs1Of w) (immIOf w)) := by
  simp [decodeWord, ho]

/-! ### The meanings -/

/-- A jump writes the link, moves pc to the target it is given and changes nothing else. Where `rd` is the register the target was
computed from, the target stays the old value's and the register ends with the link (R212). -/
theorem jumpOp_writesReg (rd : RegIdx) (target : Word) (s : State) :
    ∃ t, jumpOp rd target s = .next t ∧ WritesReg s t rd (s.pc + 4) target :=
  ⟨_, jumpOp_eq rd target s, writesReg_writeReg_setPc s rd (s.pc + 4) target⟩

/-- JAL's offset counts from its own address, not from the next instruction (R211). -/
theorem exec_jal (rd : RegIdx) (off : BitVec 21) (s : State) :
    exec (.jal rd off) s = jumpOp rd (s.pc + off.signExtend 32) s := rfl

/-- JALR masks bit 0 of the sum and no other bit (R212). -/
theorem exec_jalr (rd rs1 : RegIdx) (imm : BitVec 12) (s : State) :
    exec (.jalr rd rs1 imm) s = jumpOp rd ((s.readReg rs1 + imm.signExtend 32) &&& 0xFFFFFFFE) s := rfl

/-- Settles O22: each opcode leads the first level to its own arm, and each meaning is a jump to the target its rule names. -/
theorem jumpResults : Obligations.JumpResults := by
  refine ⟨rowDecodes_of_opcode decodeWord_of_jalOpcode rfl, rowDecodes_of_opcode decodeWord_of_jalrOpcode rfl,
    fun s rd off => ?jal, fun s rd rs1 imm => ?jalr⟩
  case jal =>
    rw [exec_jal]
    exact jumpOp_writesReg rd (s.pc + off.signExtend 32) s
  case jalr =>
    rw [exec_jalr]
    exact jumpOp_writesReg rd ((s.readReg rs1 + imm.signExtend 32) &&& 0xFFFFFFFE) s

end Sys2Proof.Machine
end

section
/-! PROOFS. The family 47_system.md: ECALL with the exit selector and with an unknown one (R222, R226), EBREAK (R227) and the
SYSTEM no-op (R228). The decoder reads the 12-bit immediate and nothing else; that no other instruction raises Breakpoint is one
case of `exec_stopsRaisedBy`, which ties every stop of the execute step to its instruction. -/

namespace Sys2Proof.Machine

open Sys2Proof.Claims

/-! ### The decoder's second level for opcode 0x73 (R96, R102) -/

theorem decodeWord_of_systemOpcode {w : Word} (ho : opcodeOf w = 0x73#7) : decodeWord w = decodeSystem w := by
  simp [decodeWord, ho]

theorem decodeSystem_of_zero {w : Word} (h : immIOf w = 0#12) : decodeSystem w = .ok .ecall := if_pos h

theorem decodeSystem_of_one {w : Word} (h : immIOf w = 1#12) : decodeSystem w = .ok .ebreak := by
  simp [decodeSystem, h]

theorem decodeSystem_of_other {w : Word} (h0 : immIOf w ≠ 0#12) (h1 : immIOf w ≠ 1#12) :
    decodeSystem w = .ok (.systemNop (immIOf w)) := (if_neg h0).trans (if_neg h1)

/-- A row of opcode 0x73 that fixes the immediate decodes as the second level answers for that immediate. -/
theorem rowDecodes_of_systemImmediate {pattern : Word} {i : Instr} {imm : BitVec 12} (hop : opcodeOf pattern = 0x73#7)
    (himm : immIOf pattern = imm) (hsecond : ∀ {w}, immIOf w = imm → decodeSystem w = .ok i) :
    RowDecodes pattern 0xFFF0007F (fun _ => i) := by
  intro w h
  have himmw : immIOf w = imm := (slice_of_match h 20 12 rfl).trans himm
  rw [decodeWord_of_systemOpcode ((opcodeOf_of_match h rfl).trans hop)]
  exact hsecond himmw

/-! ### The meanings (R222, R226, R227, R228) -/

/-- The exit selector is compared first, so no other selector's value matters. -/
theorem exec_ecall_of_exit {s : State} (h : s.readReg 17 = s.cfg.sysExit) :
    exec .ecall s = .next (s.stop (.exit (s.readReg 10))) := if_pos h

theorem exec_ecall_of_unknown {s : State} (hexit : s.readReg 17 ≠ s.cfg.sysExit) (hput : s.readReg 17 ≠ s.cfg.sysPutchar)
    (hget : s.readReg 17 ≠ s.cfg.sysGetchar) (hdebug : s.readReg 17 ≠ s.cfg.sysDebug) :
    exec .ecall s = .next (s.report (.unknownSyscall s.pc (s.readReg 17))).advance :=
  (if_neg hexit).trans <| (if_neg hput).trans <| (if_neg hget).trans (if_neg hdebug)

theorem exec_ebreak (s : State) : exec .ebreak s = .next (s.stop .breakpoint) := rfl

theorem exec_systemNop (imm : BitVec 12) (s : State) : exec (.systemNop imm) s = .next (s.setPc (s.pc + 4)) := rfl

/-! ### Which instruction raises which stop (R241, R242, R245, R248) -/

/-- Whatever stop the outcome `r` has taken is one that `i` raises in `s`, with the record that goes with it. -/
def StopsRaisedBy (s : State) (i : Instr) (r : Result) : Prop :=
  ∀ t c, r = .next t → t.run = .stopped c → raisedBy s i c

section raised
variable {s : State} {i : Instr}

theorem stopsRaisedBy_stop {c : StopCause} (hc : raisedBy s i c) : StopsRaisedBy s i (.next (s.stop c)) := by
  rintro t d ⟨⟩ ⟨⟩
  exact hc

theorem stopsRaisedBy_fault (f : Fault) : StopsRaisedBy s i (.fault f) := nofun

variable (hrun : s.run = .running)
include hrun

/-- A next state with the run status of a running core has taken no stop. -/
theorem stopsRaisedBy_next {t : State} (ht : t.run = s.run) : StopsRaisedBy s i (.next t) := by
  rintro _ c ⟨⟩ hc
  simp [ht, hrun] at hc

theorem stopsRaisedBy_branchOp (taken : Bool) (off : BitVec 13) : StopsRaisedBy s i (branchOp taken off s) := by
  rw [branchOp_eq]
  exact stopsRaisedBy_next hrun rfl

/-- A load stops only out of bounds, with its effective address and width (R171, R248). -/
theorem stopsRaisedBy_loadOp {n : Nat} {ext : BitVec (8 * n) → Word} {rd rs1 : RegIdx} {imm : BitVec 12}
    (hc : s.cfg.cap < (s.effAddr rs1 imm).toNat + n → raisedBy s i (.memoryBoundsFault (s.effAddr rs1 imm) n .load)) :
    StopsRaisedBy s i (loadOp n ext rd rs1 imm s) := by
  rw [loadOp_eq]
  split_ifs with hb
  · exact stopsRaisedBy_next hrun rfl
  · exact stopsRaisedBy_stop (hc (Nat.lt_of_not_le hb))

/-- A store stops only out of bounds, with its effective address and width (R171, R248). -/
theorem stopsRaisedBy_storeOp {n : Nat} {rs1 rs2 : RegIdx} {imm : BitVec 12}
    (hc : s.cfg.cap < (s.effAddr rs1 imm).toNat + n → raisedBy s i (.memoryBoundsFault (s.effAddr rs1 imm) n .store)) :
    StopsRaisedBy s i (storeOp n rs1 rs2 imm s) := by
  rw [storeOp_eq]
  split_ifs with hb
  · exact stopsRaisedBy_next hrun rfl
  · exact stopsRaisedBy_stop (hc (Nat.lt_of_not_le hb))

/-- Of the services of ECALL only the exit service stops the run. -/
theorem stopsRaisedBy_execEcall : StopsRaisedBy s .ecall (execEcall s) := by
  rcases execEcall_cases s with ⟨hsel, e⟩ | e | ⟨-, b, rest, -, e⟩ | ⟨-, -, -, e⟩ | ⟨-, -, -, e⟩ | ⟨d, e⟩ <;> rw [e]
  case inl => exact stopsRaisedBy_stop ⟨rfl, hsel, rfl⟩
  case inr.inr.inr.inr.inl => exact stopsRaisedBy_fault _
  all_goals exact stopsRaisedBy_next hrun rfl

/-- Say once which stops an instruction takes: in a running core its meaning raises those of its own row and no other. -/
theorem exec_stopsRaisedBy (i : Instr) : StopsRaisedBy s i (exec i s) := by
  cases i
  case ecall => exact stopsRaisedBy_execEcall hrun
  case ebreak => exact stopsRaisedBy_stop rfl
  case lb rd rs1 imm => exact stopsRaisedBy_loadOp hrun fun h => ⟨h, rd, rs1, imm, rfl, .inl ⟨rfl, .inl rfl⟩⟩
  case lbu rd rs1 imm => exact stopsRaisedBy_loadOp hrun fun h => ⟨h, rd, rs1, imm, rfl, .inl ⟨rfl, .inr rfl⟩⟩
  case lh rd rs1 imm => exact stopsRaisedBy_loadOp hrun fun h => ⟨h, rd, rs1, imm, rfl, .inr (.inl ⟨rfl, .inl rfl⟩)⟩
  case lhu rd rs1 imm => exact stopsRaisedBy_loadOp hrun fun h => ⟨h, rd, rs1, imm, rfl, .inr (.inl ⟨rfl, .inr rfl⟩)⟩
  case lw rd rs1 imm => exact stopsRaisedBy_loadOp hrun fun h => ⟨h, rd, rs1, imm, rfl, .inr (.inr ⟨rfl, rfl⟩)⟩
  case sb rs1 rs2 imm => exact stopsRaisedBy_storeOp hrun fun h => ⟨h, rs1, rs2, imm, rfl, .inl ⟨rfl, rfl⟩⟩
  case sh rs1 rs2 imm => exact stopsRaisedBy_storeOp hrun fun h => ⟨h, rs1, rs2, imm, rfl, .inr (.inl ⟨rfl, rfl⟩)⟩
  case sw rs1 rs2 imm => exact stopsRaisedBy_storeOp hrun fun h => ⟨h, rs1, rs2, imm, rfl, .inr (.inr ⟨rfl, rfl⟩)⟩
  case reservedMulh rd rs1 rs2 => exact stopsRaisedBy_stop ⟨rfl, rfl, .inl ⟨rd, rs1, rs2, .inl rfl⟩⟩
  case reservedMulhsu rd rs1 rs2 => exact stopsRaisedBy_stop ⟨rfl, rfl, .inl ⟨rd, rs1, rs2, .inr (.inl rfl)⟩⟩
  case reservedMulhu rd rs1 rs2 => exact stopsRaisedBy_stop ⟨rfl, rfl, .inl ⟨rd, rs1, rs2, .inr (.inr rfl)⟩⟩
  case reservedBranch2 rs1 rs2 off => exact stopsRaisedBy_stop ⟨rfl, rfl, .inr ⟨rs1, rs2, off, .inl rfl⟩⟩
  case reservedBranch3 rs1 rs2 off => exact stopsRaisedBy_stop ⟨rfl, rfl, .inr ⟨rs1, rs2, off, .inr rfl⟩⟩
  case beq | bne | blt | bge | bltu | bgeu => exact stopsRaisedBy_branchOp hrun _ _
  all_goals exact stopsRaisedBy_next hrun rfl

end raised

/-! ### A stopped core makes no step (R254) -/

theorem step_of_stopped {s : State} {c : StopCause} (h : s.run = .stopped c) : step s = .fault (.runOver c) := by
  simp [step, h]

/-! ### The statements -/

/-- Settles O27: none of the four comparisons holds, so the report is all there is before the fall-through. -/
theorem unknownSelectorReports : Obligations.UnknownSelectorReports :=
  fun _ hexit hput hget hdebug => ⟨_, exec_ecall_of_unknown hexit hput hget hdebug, fun _ => rfl, fun _ => rfl, rfl, rfl, rfl,
    rfl, rfl, rfl, rfl, rfl⟩

/-- Settles O28: that no other instruction raises Breakpoint is that cause's case of `exec_stopsRaisedBy`. -/
theorem breakpointStops : Obligations.BreakpointStops :=
  ⟨rowDecodes_of_systemImmediate rfl rfl decodeSystem_of_one, exec_ebreak, rfl,
    fun s => step_of_stopped (s.stop_run .breakpoint),
    fun i _ t hrun h hstop => exec_stopsRaisedBy hrun i t .breakpoint h hstop⟩

/-- Settles O23: the immediate 0 is ECALL, and the exit selector is compared first. -/
theorem exitServiceStops : Obligations.ExitServiceStops :=
  ⟨rowDecodes_of_systemImmediate rfl rfl decodeSystem_of_zero, fun _ => exec_ecall_of_exit⟩

/-- Settles O29: neither comparison of the second level holds, and the meaning moves pc alone. -/
theorem systemNopOnlyAdvances : Obligations.SystemNopOnlyAdvances := by
  refine ⟨fun w h h0 h1 => ?word, fun s imm => ⟨_, exec_systemNop imm s, onlyPc_setPc s (s.pc + 4)⟩⟩
  case word =>
    rw [decodeWord_of_systemOpcode (opcodeOf_of_match h rfl)]
    exact decodeSystem_of_other h0 h1

end Sys2Proof.Machine
end

section
/-! PROOFS. The family 60_exceptions.md: the stops UnsupportedOpcode (R244), StepLimit (R243) and Exit (R241), each with the one place
that raises it. The stages of the cycle are said once (R37, R251); that no other stage raises a stop is `step_stopOrigin`, which
ties every stop of a performed cycle to the stage it comes from. -/

namespace Sys2Proof

open Sys2Proof.Machine Sys2Proof.Claims

/-! ### Words that decode to nothing (R103, R104) -/

theorem mem_supportedOpcodes {op : BitVec 7} :
    op ∈ supportedOpcodes ↔ op = 0x33#7 ∨ op = 0x13#7 ∨ op = 0x03#7 ∨ op = 0x23#7 ∨ op = 0x63#7 ∨ op = 0x37#7 ∨ op = 0x17#7 ∨
      op = 0x6F#7 ∨ op = 0x67#7 ∨ op = 0x73#7 := by
  simp [supportedOpcodes]

theorem decodeWord_of_unsupportedOpcode {w : Word} (ho : opcodeOf w ∉ supportedOpcodes) :
    decodeWord w = .error .unsupportedOpcode := by
  simp only [mem_supportedOpcodes, not_or] at ho
  simp [decodeWord, ho]

section secondLevel
variable {w : Word} {e : DecodeError}

theorem decodeWord_of_registerOpcode (ho : opcodeOf w = 0x33#7) : decodeWord w = decodeRegister w := if_pos ho

theorem decodeWord_of_immediateOpcode (ho : opcodeOf w = 0x13#7) : decodeWord w = decodeImmediate w := by
  simp [decodeWord, ho]

theorem decodeLoad_ne_error : decodeLoad w ≠ .error e := by
  simp only [decodeLoad]
  split_ifs <;> exact nofun

theorem decodeStore_ne_error : decodeStore w ≠ .error e := by
  simp only [decodeStore]
  split_ifs <;> exact nofun

theorem decodeBranch_ne_error : decodeBranch w ≠ .error e := by
  simp only [decodeBranch]
  split_ifs <;> exact nofun

theorem decodeSystem_ne_error : decodeSystem w ≠ .error e := by
  unfold decodeSystem
  split_ifs <;> exact nofun

theorem decodeRegister_error (h : decodeRegister w = .error e) : e = .reservedAlternate ∨ e = .reservedFunct7 := by
  simp only [decodeRegister] at h
  split_ifs at h <;> cases h
  · exact .inl rfl
  · exact .inr rfl

theorem decodeImmediate_error (h : decodeImmediate w = .error e) : e = .reservedShift := by
  simp only [decodeImmediate] at h
  split_ifs at h
  exact (Except.error.inj h).symm

/-- Only the second levels of the opcodes 0x33 and 0x13 reject words, and what they reject is reserved. -/
theorem decodeStop_of_supportedOpcode (ho : opcodeOf w ∈ supportedOpcodes) (h : decodeWord w = .error e) (pc : Word) :
    decodeStop pc w e = .reservedEncoding pc w := by
  rcases mem_supportedOpcodes.mp ho with ho | ho | ho | ho | ho | ho | ho | ho | ho | ho
  · obtain rfl | rfl := decodeRegister_error (decodeWord_of_registerOpcode ho ▸ h) <;> rfl
  · obtain rfl := decodeImmediate_error (decodeWord_of_immediateOpcode ho ▸ h)
    rfl
  · exact absurd (decodeWord_of_loadOpcode ho ▸ h) decodeLoad_ne_error
  · exact absurd (decodeWord_of_storeOpcode ho ▸ h) decodeStore_ne_error
  · exact absurd (decodeWord_of_branchOpcode ho ▸ h) decodeBranch_ne_error
  · cases (decodeWord_of_luiOpcode ho).symm.trans h
  · cases (decodeWord_of_auipcOpcode ho).symm.trans h
  · cases (decodeWord_of_jalOpcode ho).symm.trans h
  · cases (decodeWord_of_jalrOpcode ho).symm.trans h
  · exact absurd (decodeWord_of_systemOpcode ho ▸ h) decodeSystem_ne_error

end secondLevel

namespace Machine

/-! ### The stages of a cycle (R37, R251) -/

section stages
variable {s : State}

theorem State.ceilingReached_iff : s.ceilingReached = true ↔ s.cfg.stepLimit = some s.executed := beq_iff_eq

theorem step_of_ceiling (hrun : s.run = .running) (hceil : s.cfg.stepLimit = some s.executed) :
    step s = .next (s.stop .stepLimit) := by
  simp [step, hrun, State.ceilingReached_iff.mpr hceil]

theorem step_of_fetchError {c : StopCause} (h : Ready s) (hf : s.fetch = .error c) : step s = .next (s.stop c) := by
  obtain ⟨hrun, hceil⟩ := h
  simp [step, hrun, State.ceilingReached_iff, hceil, hf]

theorem step_of_decodeError {w : Word} {e : DecodeError} (h : Fetches s w) (hd : decodeWord w = .error e) :
    step s = .next (s.stop (decodeStop s.pc w e)) := by
  obtain ⟨⟨hrun, hceil⟩, hf⟩ := h
  simp [step, hrun, State.ceilingReached_iff, hceil, hf, hd]

theorem step_of_decoded {w : Word} {i : Instr} (h : Fetches s w) (hd : decodeWord w = .ok i) :
    step s = countCompleted (exec i s) := by
  obtain ⟨⟨hrun, hceil⟩, hf⟩ := h
  simp [step, hrun, State.ceilingReached_iff, hceil, hf, hd]

theorem countCompleted_eq_next {r : Result} {t : State} (h : countCompleted r = .next t) :
    ∃ u, r = .next u ∧ t = u.countCycle := by
  cases r with
  | next u => exact ⟨u, rfl, (Host.Outcome.next.inj h).symm⟩
  | fault | refused => cases h

/-- The two ways a fetch fails (R59, R251). -/
theorem State.fetch_error {c : StopCause} (h : s.fetch = .error c) : c = .fetchBoundsFault s.pc ∨ c = .misalignedFetch s.pc := by
  unfold State.fetch at h
  split_ifs at h <;> cases h
  · exact .inl rfl
  · exact .inr rfl

/-- The stage of a performed cycle that a stop comes from, with the cause that stage records. -/
inductive StopOrigin (s : State) (c : StopCause) : Prop
  | fetch (hf : s.fetch = .error c)
  | decode (w : Word) (e : DecodeError) (hf : s.fetch = .ok w) (hd : decodeWord w = .error e) (hc : c = decodeStop s.pc w e)
  | execute (w : Word) (i : Instr) (hf : s.fetch = .ok w) (hd : decodeWord w = .ok i) (hc : raisedBy s i c)

/-- Say once which stops a performed cycle takes: that of its fetch, of its decode, or of its instruction. -/
theorem step_stopOrigin {t : State} {c : StopCause} (hready : Ready s) (h : step s = .next t) (hstop : t.run = .stopped c) :
    StopOrigin s c := by
  cases hf : s.fetch with
  | error d =>
    cases (step_of_fetchError hready hf).symm.trans h
    cases hstop
    exact .fetch hf
  | ok w =>
    cases hd : decodeWord w with
    | error e =>
      cases (step_of_decodeError ⟨hready, hf⟩ hd).symm.trans h
      cases hstop
      exact .decode w e hf hd rfl
    | ok i =>
      obtain ⟨u, hu, rfl⟩ := countCompleted_eq_next ((step_of_decoded ⟨hready, hf⟩ hd).symm.trans h)
      exact .execute w i hf hd (exec_stopsRaisedBy hready.1 i u c hu hstop)

end stages

/-! ### The statements -/

/-- Settles O8: the first level rejects such a word, and with a supported opcode neither the fetch, nor the second level, nor the
instruction raises UnsupportedOpcode. -/
theorem unsupportedOpcodeStops : Obligations.UnsupportedOpcodeStops := by
  refine ⟨fun w => decodeWord_of_unsupportedOpcode, fun s w hw ho => ?stops, fun s w t pc v hw ho h hstop => ?converse,
    fun _ _ => rfl⟩
  case stops => exact ⟨_, step_of_decodeError hw (decodeWord_of_unsupportedOpcode ho), takesStop_stop s _⟩
  case converse =>
    obtain ⟨hready, hfetch⟩ := hw
    cases step_stopOrigin hready h hstop with
    | fetch hf => cases hfetch.symm.trans hf
    | decode w' e hf hd hc =>
      obtain rfl := Except.ok.inj (hfetch.symm.trans hf)
      cases hc.trans (decodeStop_of_supportedOpcode ho hd s.pc)
    | execute _ _ _ _ hc => exact hc

/-- Settles O36: the ceiling is compared first, and no stage of a performed cycle raises StepLimit. -/
theorem ceilingStopsBeforeFetch : Obligations.CeilingStopsBeforeFetch := by
  refine ⟨fun s n hrun hlimit hn => ?stops, fun s t hready h hstop => ?converse, rfl⟩
  case stops => exact ⟨_, step_of_ceiling hrun (hn ▸ hlimit), takesStop_stop s _⟩
  case converse =>
    cases step_stopOrigin hready h hstop with
    | fetch hf => obtain hc | hc := State.fetch_error hf <;> cases hc
    | decode _ e _ _ hc => cases e <;> cases hc
    | execute _ _ _ _ hc => exact hc

/-- Settles O42: that no other instruction raises Exit is that cause's case of `exec_stopsRaisedBy`. -/
theorem exitOnlyFromExitService : Obligations.ExitOnlyFromExitService :=
  ⟨fun s h => ⟨_, exec_ecall_of_exit h, takesStop_stop s _⟩,
    fun i _ t n hrun h hstop => exec_stopsRaisedBy hrun i t (.exit n) h hstop, fun _ => rfl⟩

end Machine
end Sys2Proof
end

section
/-! PROOFS. The family 30_encoding.md: the decoder and the encoder undo each other (R82 to R102), but for the bits the decoder
does not consult (R105), and what follows for the rows of the opcode table (R112) and for the reserved words (R104). -/

namespace Sys2Proof

open Sys2Proof.Machine Sys2Proof.Claims

/-! ### Decoding an encoded instruction -/

/-- Settles O2: the opcode leads the decoder to the second level of the format, whose fields come back one by one; the two
formats that fix bit 0 of an offset and the SYSTEM no-op need the instruction to be well-formed. -/
theorem decodeOfEncode : Obligations.DecodeOfEncode := by
  intro i hwf
  cases i
  case add | sub | sll | slt | sltu | xor | srl | sra | or | and | mul | div | divu | rem | remu
      | reservedMulh | reservedMulhsu | reservedMulhu =>
    exact (decodeWord_of_registerOpcode (opcodeOf_encodeR ..)).trans (by simp [decodeRegister])
  case addi | slti | sltiu | xori | ori | andi =>
    exact (decodeWord_of_immediateOpcode (opcodeOf_encodeI ..)).trans (by simp [decodeImmediate])
  case slli | srli | srai =>
    exact (decodeWord_of_immediateOpcode (opcodeOf_encodeShift ..)).trans (by simp [decodeImmediate])
  case lb | lh | lw | lbu | lhu | loadWidth3 | loadWidth6 | loadWidth7 =>
    exact (decodeWord_of_loadOpcode (opcodeOf_encodeI ..)).trans (by simp [decodeLoad])
  case sb | sh | sw | storeWidth3 | storeWidth4 | storeWidth5 | storeWidth6 | storeWidth7 =>
    exact (decodeWord_of_storeOpcode (opcodeOf_encodeS ..)).trans (by simp [decodeStore])
  case beq | bne | blt | bge | bltu | bgeu | reservedBranch2 | reservedBranch3 =>
    exact (decodeWord_of_branchOpcode (opcodeOf_encodeB ..)).trans
      (by simp [decodeBranch, offBOf_encodeB (h := hwf)])
  case lui => exact (decodeWord_of_luiOpcode (opcodeOf_encodeU ..)).trans (by simp)
  case auipc => exact (decodeWord_of_auipcOpcode (opcodeOf_encodeU ..)).trans (by simp)
  case jal => exact (decodeWord_of_jalOpcode (opcodeOf_encodeJ ..)).trans (by simp [offJOf_encodeJ (h := hwf)])
  case jalr => exact (decodeWord_of_jalrOpcode (opcodeOf_encodeI ..)).trans (by simp)
  case ecall => exact (decodeWord_of_systemOpcode (opcodeOf_encodeI ..)).trans (decodeSystem_of_zero (immIOf_encodeI ..))
  case ebreak => exact (decodeWord_of_systemOpcode (opcodeOf_encodeI ..)).trans (decodeSystem_of_one (immIOf_encodeI ..))
  case systemNop imm =>
    obtain ⟨h0, h1⟩ : imm ≠ 0#12 ∧ imm ≠ 1#12 := by simpa [Instr.wf, systemNopImmediate] using hwf
    refine (decodeWord_of_systemOpcode (opcodeOf_encodeI ..)).trans ?_
    rw [decodeSystem_of_other (by rwa [immIOf_encodeI]) (by rwa [immIOf_encodeI]), immIOf_encodeI]

/-! ### The word a format's fields give back -/

section fields
variable {w : Word} {f7 op : BitVec 7} {f3 : BitVec 3}

theorem encodeR_fields (ho : opcodeOf w = op) (h3 : funct3Of w = f3) (h7 : funct7Of w = f7) :
    encodeR f7 (rs2Of w) (rs1Of w) f3 (rdOf w) op = w := by
  subst ho h3 h7
  simp only [encodeR, opcodeOf, funct3Of, funct7Of, rdOf, rs1Of, rs2Of, fieldOfReg_regOfField]
  rw [extract_join w 20 7 5, extract_join w 15 12 5, extract_join w 12 17 3, extract_join w 7 20 5, extract_join w 0 25 7]
  exact extract_whole w

theorem encodeI_fields (ho : opcodeOf w = op) (h3 : funct3Of w = f3) :
    encodeI (immIOf w) (rs1Of w) f3 (rdOf w) op = w := by
  subst ho h3
  simp only [encodeI, opcodeOf, funct3Of, rdOf, rs1Of, immIOf, fieldOfReg_regOfField]
  rw [extract_join w 15 12 5, extract_join w 12 17 3, extract_join w 7 20 5, extract_join w 0 25 7]
  exact extract_whole w

theorem encodeShift_fields (ho : opcodeOf w = 0x13#7) (h3 : funct3Of w = f3) (h7 : funct7Of w = f7) :
    encodeShift f7 (shamtOf w) (rs1Of w) f3 (rdOf w) = w := by
  have hrs2 : shamtOf w = fieldOfReg (rs2Of w) := (fieldOfReg_regOfField _).symm
  rw [hrs2]
  exact encodeR_fields ho h3 h7

theorem encodeS_fields (ho : opcodeOf w = 0x23#7) (h3 : funct3Of w = f3) :
    encodeS (immSOf w) (rs2Of w) (rs1Of w) f3 = w := by
  have hhigh : (immSOf w).extractLsb' 5 7 = funct7Of w := by
    simp (disch := omega) only [immSOf, funct7Of, extract_append_high, extract_whole, Nat.reduceSub]
  have hlow : (immSOf w).extractLsb' 0 5 = fieldOfReg (rdOf w) := by
    simp (disch := omega) only [immSOf, rdOf, fieldOfReg_regOfField, extract_append_low, extract_whole]
  rw [encodeS, hhigh, hlow]
  exact encodeR_fields ho h3 rfl

theorem encodeB_fields (ho : opcodeOf w = 0x63#7) (h3 : funct3Of w = f3) :
    encodeB (offBOf w) (rs2Of w) (rs1Of w) f3 = w := by
  subst h3
  simp (disch := omega) only [encodeB, ← ho, offBOf, opcodeOf, funct3Of, rs1Of, rs2Of, fieldOfReg_regOfField,
    extract_append_low, extract_append_high, extract_whole, Nat.reduceSub]
  rw [extract_join w 25 1 6, extract_join w 20 7 5, extract_join w 15 12 5, extract_join w 12 17 3, extract_join w 8 20 4,
    extract_join w 7 24 1, extract_join w 0 25 7]
  exact extract_whole w

theorem encodeU_fields (ho : opcodeOf w = op) : encodeU (immUOf w) (rdOf w) op = w := by
  subst ho
  simp only [encodeU, opcodeOf, rdOf, immUOf, fieldOfReg_regOfField]
  rw [extract_join w 7 20 5, extract_join w 0 25 7]
  exact extract_whole w

theorem encodeJ_fields (ho : opcodeOf w = 0x6F#7) : encodeJ (offJOf w) (rdOf w) = w := by
  simp (disch := omega) only [encodeJ, ← ho, offJOf, opcodeOf, rdOf, fieldOfReg_regOfField, extract_append_low,
    extract_append_high, extract_whole, Nat.reduceSub]
  rw [extract_join w 21 1 10, extract_join w 20 11 1, extract_join w 12 12 8, extract_join w 7 20 5, extract_join w 0 25 7]
  exact extract_whole w

end fields

/-! ### The bits the decoder does not consult (R105) -/

section unconsulted
open Sys2Proof.Laws.EncodeInRow

/-- JALR's `w[14:12]`. -/
theorem encodeI_and_unconsultedFunct3 (imm : BitVec 12) (rs1 rd : RegIdx) (f3 : BitVec 3) (op : BitVec 7) :
    encodeI imm rs1 f3 rd op &&& 0xFFFF8FFF = encodeI imm rs1 0 rd op := by
  change (imm ++ fieldOfReg rs1 ++ f3 ++ fieldOfReg rd ++ op) &&&
    (BitVec.allOnes 12 ++ BitVec.allOnes 5 ++ 0#3 ++ BitVec.allOnes 5 ++ BitVec.allOnes 7) =
    imm ++ fieldOfReg rs1 ++ 0#3 ++ fieldOfReg rd ++ op
  simp only [append_and, BitVec.and_zero, BitVec.and_allOnes]

/-- The system words' `w[19:7]`. -/
theorem encodeI_and_immediateOnly (imm : BitVec 12) (rs1 rd : RegIdx) (f3 : BitVec 3) (op : BitVec 7) :
    encodeI imm rs1 f3 rd op &&& 0xFFF0007F = encodeI imm 0 0 0 op := by
  change (imm ++ fieldOfReg rs1 ++ f3 ++ fieldOfReg rd ++ op) &&&
    (BitVec.allOnes 12 ++ 0#5 ++ 0#3 ++ 0#5 ++ BitVec.allOnes 7) = imm ++ 0#5 ++ 0#3 ++ 0#5 ++ op
  simp only [append_and, BitVec.and_zero, BitVec.and_allOnes]

/-- SLLI's `w[31:25]`. -/
theorem encodeShift_and_unconsultedFunct7 (f7 : BitVec 7) (shamt : BitVec 5) (rs1 rd : RegIdx) (f3 : BitVec 3) :
    encodeShift f7 shamt rs1 f3 rd &&& 0x01FFFFFF = encodeShift 0 shamt rs1 f3 rd := by
  change (f7 ++ shamt ++ fieldOfReg rs1 ++ f3 ++ fieldOfReg rd ++ 0x13#7) &&&
    (0#7 ++ BitVec.allOnes 5 ++ BitVec.allOnes 5 ++ BitVec.allOnes 3 ++ BitVec.allOnes 5 ++ BitVec.allOnes 7) =
    0#7 ++ shamt ++ fieldOfReg rs1 ++ f3 ++ fieldOfReg rd ++ 0x13#7
  simp only [append_and, BitVec.and_zero, BitVec.and_allOnes]

end unconsulted

/-! ### What a decoded word is -/

theorem funct3_cases : ∀ f : BitVec 3,
    f = 0#3 ∨ f = 1#3 ∨ f = 2#3 ∨ f = 3#3 ∨ f = 4#3 ∨ f = 5#3 ∨ f = 6#3 ∨ f = 7#3 := by decide

/-- The instruction `i` holds every consulted bit of the word `w`, and is one that some word encodes. -/
structure Carries (w : Word) (i : Instr) : Prop where
  word : encode i = w &&& consultedBits i
  wf : i.wf = true

section carries
variable {w : Word} {i : Instr}

/-- Where every bit is consulted, the instruction's word is the whole word. -/
theorem Carries.of_word (h : encode i = w) (hall : consultedBits i = BitVec.allOnes 32) (hwf : i.wf = true) : Carries w i :=
  ⟨by rw [hall, BitVec.and_allOnes, h], hwf⟩

theorem decodeRegister_carries (ho : opcodeOf w = 0x33#7) (h : decodeRegister w = .ok i) : Carries w i := by
  obtain h3 | h3 | h3 | h3 | h3 | h3 | h3 | h3 := funct3_cases (funct3Of w)
  all_goals
    simp only [decodeRegister, h3, BitVec.reduceEq, if_true, if_false] at h
    split_ifs at h <;> cases h
    all_goals exact .of_word (encodeR_fields ho h3 ‹_›) rfl rfl

theorem decodeImmediate_carries (ho : opcodeOf w = 0x13#7) (h : decodeImmediate w = .ok i) : Carries w i := by
  obtain h3 | h3 | h3 | h3 | h3 | h3 | h3 | h3 := funct3_cases (funct3Of w)
  case inr.inl =>
    obtain rfl := Except.ok.inj ((decodeImmediate_slli h3).symm.trans h)
    refine ⟨?_, rfl⟩
    calc encodeShift 0 (shamtOf w) (rs1Of w) 1 (rdOf w)
        = encodeShift (funct7Of w) (shamtOf w) (rs1Of w) 1 (rdOf w) &&& 0x01FFFFFF :=
          (encodeShift_and_unconsultedFunct7 ..).symm
      _ = w &&& 0x01FFFFFF := congrArg (· &&& 0x01FFFFFF) (encodeShift_fields ho h3 rfl)
  case inr.inr.inr.inr.inr.inl =>
    simp only [decodeImmediate, h3, BitVec.reduceEq, if_true, if_false] at h
    split_ifs at h <;> cases h
    all_goals exact .of_word (encodeShift_fields ho h3 ‹_›) rfl rfl
  all_goals
    simp only [decodeImmediate, h3, BitVec.reduceEq, if_true, if_false] at h
    cases h
    exact .of_word (encodeI_fields ho h3) rfl rfl

theorem decodeLoad_carries (ho : opcodeOf w = 0x03#7) (h : decodeLoad w = .ok i) : Carries w i := by
  obtain h3 | h3 | h3 | h3 | h3 | h3 | h3 | h3 := funct3_cases (funct3Of w)
  all_goals
    simp only [decodeLoad, h3, BitVec.reduceEq, if_true, if_false] at h
    cases h
    exact .of_word (encodeI_fields ho h3) rfl rfl

theorem decodeStore_carries (ho : opcodeOf w = 0x23#7) (h : decodeStore w = .ok i) : Carries w i := by
  obtain h3 | h3 | h3 | h3 | h3 | h3 | h3 | h3 := funct3_cases (funct3Of w)
  all_goals
    simp only [decodeStore, h3, BitVec.reduceEq, if_true, if_false] at h
    cases h
    exact .of_word (encodeS_fields ho h3) rfl rfl

theorem decodeBranch_carries (ho : opcodeOf w = 0x63#7) (h : decodeBranch w = .ok i) : Carries w i := by
  obtain h3 | h3 | h3 | h3 | h3 | h3 | h3 | h3 := funct3_cases (funct3Of w)
  all_goals
    simp only [decodeBranch, h3, BitVec.reduceEq, if_true, if_false] at h
    cases h
    exact .of_word (encodeB_fields ho h3) rfl (offBOf_even w)

/-- A system word keeps its opcode and its 12-bit immediate only. -/
theorem encodeI_immediateOnly_fields (ho : opcodeOf w = 0x73#7) :
    encodeI (immIOf w) 0 0 0 0x73#7 = w &&& 0xFFF0007F := by
  rw [← encodeI_and_immediateOnly (immIOf w) (rs1Of w) (rdOf w) (funct3Of w), encodeI_fields ho rfl]

theorem decodeSystem_carries (ho : opcodeOf w = 0x73#7) (h : decodeSystem w = .ok i) : Carries w i := by
  have hword := encodeI_immediateOnly_fields ho
  by_cases h0 : immIOf w = 0#12
  · obtain rfl := Except.ok.inj ((decodeSystem_of_zero h0).symm.trans h)
    exact ⟨by rw [h0] at hword; exact hword, rfl⟩
  by_cases h1 : immIOf w = 1#12
  · obtain rfl := Except.ok.inj ((decodeSystem_of_one h1).symm.trans h)
    exact ⟨by rw [h1] at hword; exact hword, rfl⟩
  · obtain rfl := Except.ok.inj ((decodeSystem_of_other h0 h1).symm.trans h)
    exact ⟨hword, by simp [Instr.wf, systemNopImmediate, h0, h1]⟩

/-- Say once what a decoded word is: whatever `i` is, it carries the word. -/
theorem decodeWord_carries (h : decodeWord w = .ok i) : Carries w i := by
  rcases decodeWord_cases h with ⟨ho, h⟩ | ⟨ho, h⟩ | ⟨ho, h⟩ | ⟨ho, h⟩ | ⟨ho, h⟩ | ⟨ho, rfl⟩ | ⟨ho, rfl⟩ |
    ⟨ho, rfl⟩ | ⟨ho, rfl⟩ | ⟨ho, h⟩
  · exact decodeRegister_carries ho h
  · exact decodeImmediate_carries ho h
  · exact decodeLoad_carries ho h
  · exact decodeStore_carries ho h
  · exact decodeBranch_carries ho h
  · exact .of_word (encodeU_fields ho) rfl rfl
  · exact .of_word (encodeU_fields ho) rfl rfl
  · exact .of_word (encodeJ_fields ho) rfl (offJOf_even w)
  · refine ⟨?_, rfl⟩
    calc encodeI (immIOf w) (rs1Of w) 0 (rdOf w) 0x67
        = encodeI (immIOf w) (rs1Of w) (funct3Of w) (rdOf w) 0x67 &&& 0xFFFF8FFF :=
          (encodeI_and_unconsultedFunct3 ..).symm
      _ = w &&& 0xFFFF8FFF := congrArg (· &&& 0xFFFF8FFF) (encodeI_fields ho rfl)
  · exact decodeSystem_carries ho h

/-- An instruction that consults every bit has the decoded word as its own. -/
theorem encode_of_decodeWord (h : decodeWord w = .ok i) (hall : consultedBits i = BitVec.allOnes 32) : encode i = w := by
  rw [(decodeWord_carries h).word, hall, BitVec.and_allOnes]

end carries

/-- Settles O3, from what the decoded instruction carries. -/
theorem encodeOfDecode : Obligations.EncodeOfDecode := fun _ _ h => (decodeWord_carries h).word

/-- Settles O4, from what the decoded instruction carries. -/
theorem decodedIsWellFormed : Obligations.DecodedIsWellFormed := fun _ _ h => (decodeWord_carries h).wf

/-! ### The rows of the opcode table (R112) -/

section rows
open Sys2Proof.Laws.EncodeInRow

/-- Every encoded instruction matches its row. -/
theorem encode_inRow (i : Instr) : Statement i := by
  cases i
  case slli => exact (encodeShift_and ..).trans rfl
  case srli | srai => exact (encodeShift_and_funct7 ..).trans rfl
  case lui | auipc => exact (encodeU_and ..).trans rfl
  case jal => exact (encodeJ_and ..).trans rfl
  case jalr | systemNop => exact (encodeI_and_opcode ..).trans rfl
  case ecall | ebreak => rfl
  case beq | bne | blt | bge | bltu | bgeu | reservedBranch2 | reservedBranch3 => exact (encodeB_and ..).trans rfl
  case sb | sh | sw | storeWidth3 | storeWidth4 | storeWidth5 | storeWidth6 | storeWidth7 =>
    exact (encodeS_and ..).trans rfl
  case addi | slti | sltiu | xori | ori | andi | lb | lh | lw | lbu | lhu | loadWidth3 | loadWidth6 | loadWidth7 =>
    exact (encodeI_and ..).trans rfl
  all_goals exact (encodeR_and ..).trans rfl

/-- A row looks at consulted bits only. -/
theorem consultedBits_and_rowMask (i : Instr) : consultedBits i &&& (rowOf i).mask = (rowOf i).mask := by
  cases i
  case slli => exact (by decide : (0x01FFFFFF : Word) &&& 0x0000707F = 0x0000707F)
  case jalr => exact (by decide : (0xFFFF8FFF : Word) &&& 0x0000007F = 0x0000007F)
  case ecall | ebreak => exact BitVec.and_self
  case systemNop => exact (by decide : (0xFFF0007F : Word) &&& 0x0000007F = 0x0000007F)
  all_goals exact BitVec.allOnes_and

end rows

/-- Settles O5: under a row's mask a decoded word and the instruction's own word agree, and the latter is in the row. -/
theorem decodedWordInRow : Obligations.DecodedWordInRow := by
  intro w i h
  calc w &&& (rowOf i).mask
      = w &&& consultedBits i &&& (rowOf i).mask := by rw [BitVec.and_assoc, consultedBits_and_rowMask]
    _ = encode i &&& (rowOf i).mask := by rw [(decodeWord_carries h).word]
    _ = (rowOf i).pattern := encode_inRow i

namespace Machine

/-! ### The reserved words (R104, R245) -/

section decode
variable {w : Word}

theorem decodeRegister_reservedMulh (h7 : funct7Of w = 0x01#7) (h3 : funct3Of w = 1#3) :
    decodeRegister w = .ok (.reservedMulh (rdOf w) (rs1Of w) (rs2Of w)) := by
  simp [decodeRegister, h7, h3]

theorem decodeRegister_reservedMulhsu (h7 : funct7Of w = 0x01#7) (h3 : funct3Of w = 2#3) :
    decodeRegister w = .ok (.reservedMulhsu (rdOf w) (rs1Of w) (rs2Of w)) := by
  simp [decodeRegister, h7, h3]

theorem decodeRegister_reservedMulhu (h7 : funct7Of w = 0x01#7) (h3 : funct3Of w = 3#3) :
    decodeRegister w = .ok (.reservedMulhu (rdOf w) (rs1Of w) (rs2Of w)) := by
  simp [decodeRegister, h7, h3]

theorem decodeBranch_reservedBranch2 (h3 : funct3Of w = 2#3) :
    decodeBranch w = .ok (.reservedBranch2 (rs1Of w) (rs2Of w) (offBOf w)) := by
  simp [decodeBranch, h3]

theorem decodeBranch_reservedBranch3 (h3 : funct3Of w = 3#3) :
    decodeBranch w = .ok (.reservedBranch3 (rs1Of w) (rs2Of w) (offBOf w)) := by
  simp [decodeBranch, h3]

theorem decodeRegister_reservedFunct7 (h0 : funct7Of w ≠ 0x00#7) (h1 : funct7Of w ≠ 0x01#7) (h2 : funct7Of w ≠ 0x20#7) :
    decodeRegister w = .error .reservedFunct7 := by
  simp [decodeRegister, h0, h1, h2]

theorem decodeRegister_reservedAlternate (h7 : funct7Of w = 0x20#7) (h0 : funct3Of w ≠ 0#3) (h5 : funct3Of w ≠ 5#3) :
    decodeRegister w = .error .reservedAlternate := by
  simp [decodeRegister, h7, h0, h5]

theorem decodeImmediate_reservedShift (h3 : funct3Of w = 5#3) (h0 : funct7Of w ≠ 0x00#7) (h2 : funct7Of w ≠ 0x20#7) :
    decodeImmediate w = .error .reservedShift := by
  simp [decodeImmediate, h3, h0, h2]

end decode

/-- What makes a reserved row: its words decode to the constructor, whose meaning is the stop with the word it encodes to; since
it consults every bit, that is the very word. -/
theorem reservedRow_of_rowDecodes {pattern mask : Word} {mk : Word → Instr} (hd : RowDecodes pattern mask mk)
    (hexec : ∀ w s, exec (mk w) s = reservedWord (mk w) s) (hall : ∀ w, consultedBits (mk w) = BitVec.allOnes 32) :
    ReservedRow pattern mask mk := by
  refine ⟨hd, fun s w h => ?_⟩
  rw [hexec, reservedWord_eq, encode_of_decodeWord (hd w h) (hall w)]

/-- Settles O10 with one line per row: where the decoder sends its words. -/
theorem reservedRowsStop : Obligations.ReservedRowsStop := by
  refine ⟨reservedRow_of_rowDecodes (fun w h => ?mulh) (fun _ _ => rfl) fun _ => rfl,
    reservedRow_of_rowDecodes (fun w h => ?mulhsu) (fun _ _ => rfl) fun _ => rfl,
    reservedRow_of_rowDecodes (fun w h => ?mulhu) (fun _ _ => rfl) fun _ => rfl,
    reservedRow_of_rowDecodes ?branch2 (fun _ _ => rfl) fun _ => rfl,
    reservedRow_of_rowDecodes ?branch3 (fun _ _ => rfl) fun _ => rfl⟩
  case mulh => exact decodeWord_of_registerMatch h rfl rfl rfl decodeRegister_reservedMulh
  case mulhsu => exact decodeWord_of_registerMatch h rfl rfl rfl decodeRegister_reservedMulhsu
  case mulhu => exact decodeWord_of_registerMatch h rfl rfl rfl decodeRegister_reservedMulhu
  case branch2 => exact rowDecodes_of_funct3 decodeWord_of_branchOpcode rfl rfl fun _ => decodeBranch_reservedBranch2
  case branch3 => exact rowDecodes_of_funct3 decodeWord_of_branchOpcode rfl rfl fun _ => decodeBranch_reservedBranch3

section reserved
variable {s : State} {w : Word} (h : Fetches s w)
include h

/-- A cycle whose word decodes to a reserved constructor takes the stop with that word. -/
theorem step_of_reservedInstr {i : Instr} (hd : decodeWord w = .ok i) (hexec : exec i s = reservedWord i s)
    (hall : consultedBits i = BitVec.allOnes 32) : step s = .next (s.stop (.reservedEncoding s.pc w)) := by
  rw [step_of_decoded h hd, hexec, reservedWord_eq, encode_of_decodeWord hd hall]
  rfl

theorem step_of_reservedError {e : DecodeError} (hd : decodeWord w = .error e)
    (hstop : decodeStop s.pc w e = .reservedEncoding s.pc w) : step s = .next (s.stop (.reservedEncoding s.pc w)) := by
  rw [step_of_decodeError h hd, hstop]

end reserved

/-- Settles O9: the patterns (a), (b) and (d) are the second levels' own errors, (c) and (e) decode to the reserved
constructors. -/
theorem reservedWordsStop : Obligations.ReservedWordsStop := by
  rintro s w h (⟨ho, h70, h71, h72⟩ | ⟨ho, h7, h30, h35⟩ | ⟨ho, h7, h3⟩ | ⟨ho, h3, h70, h72⟩ | ⟨ho, h3⟩)
  · exact step_of_reservedError h ((decodeWord_of_registerOpcode ho).trans (decodeRegister_reservedFunct7 h70 h71 h72)) rfl
  · exact step_of_reservedError h ((decodeWord_of_registerOpcode ho).trans (decodeRegister_reservedAlternate h7 h30 h35)) rfl
  · have hop := decodeWord_of_registerOpcode ho
    obtain h3 | h3 | h3 := h3
    · exact step_of_reservedInstr h (hop.trans (decodeRegister_reservedMulh h7 h3)) rfl rfl
    · exact step_of_reservedInstr h (hop.trans (decodeRegister_reservedMulhsu h7 h3)) rfl rfl
    · exact step_of_reservedInstr h (hop.trans (decodeRegister_reservedMulhu h7 h3)) rfl rfl
  · exact step_of_reservedError h ((decodeWord_of_immediateOpcode ho).trans (decodeImmediate_reservedShift h3 h70 h72)) rfl
  · have hop := decodeWord_of_branchOpcode ho
    obtain h3 | h3 := h3
    · exact step_of_reservedInstr h (hop.trans (decodeBranch_reservedBranch2 h3)) rfl rfl
    · exact step_of_reservedInstr h (hop.trans (decodeBranch_reservedBranch3 h3)) rfl rfl

end Machine
end Sys2Proof
end

section
/-! PROOFS. The whole machine, state by state (10_state.md R34, 70_reset_and_hazards.md R270): the invariant at reset, along a
step and along a run, and that what the output and diagnostic streams hold influences no step. -/

namespace Sys2Proof.Machine

open Sys2Proof.Claims

/-! ### The invariant (R5, R22, R50) -/

section invariant
variable {s t : State}

/-- The register file's slot 0 is out of reach of a register write. -/
theorem State.writeReg_zeroSlot (s : State) (r : RegIdx) (v : Word) : (s.writeReg r v).regs.get 0 = s.regs.get 0 := by
  rw [State.writeReg_regs]
  split_ifs with hr
  · rfl
  · have hne : r.val ≠ 0 := fun h => hr (Fin.ext h)
    exact Vector.getElem_set_ne _ _ hne

/-- A state with the parameters, the slot 0 and the memory of one with the invariant has it too. -/
theorem State.Inv.congr (h : s.Inv) (hcfg : t.cfg = s.cfg) (hzero : t.regs.get 0 = s.regs.get 0) (hmem : t.mem = s.mem) :
    t.Inv where
  cfgWF := hcfg ▸ h.cfgWF
  zeroSlot := hzero.trans h.zeroSlot
  memWF := hmem ▸ h.memWF
  memWithin := by rw [hmem, hcfg]; exact h.memWithin

/-- Of the shapes of a next state only a register write touches the register file, and only a store, which is in bounds, touches
memory. -/
theorem Effect.inv (h : Effect s t) (hs : s.Inv) : t.Inv := by
  cases h with
  | stops | branches | falls | reports | sends => exact hs.congr rfl rfl rfl
  | writes rd v | jumps rd v => exact hs.congr rfl (s.writeReg_zeroSlot rd v) rfl
  | receives b rest => exact hs.congr rfl ((s.setInput rest).writeReg_zeroSlot a0 _) rfl
  | stores a n v hin =>
    exact {
      cfgWF := hs.cfgWF
      zeroSlot := hs.zeroSlot
      memWF := Memory.writeLE_wf _ _ _ _ hs.memWF
      memWithin := Memory.writeLE_within _ _ _ _ _ hs.memWithin hin }

theorem step_inv (hs : s.Inv) (h : step s = .next t) : t.Inv := by
  obtain ⟨-, ⟨c, rfl⟩ | ⟨w, i, u, -, -, -, hu, rfl⟩⟩ := step_cases h
  · exact (Effect.stops c).inv hs
  · exact ((exec_effect hu).inv hs).congr rfl rfl rfl

/-- Settles O46: a step stops before its instruction or has one of the shapes of `Effect`, and each keeps the invariant. -/
theorem stepKeepsInvariant : Obligations.StepKeepsInvariant := fun _ _ => step_inv

theorem ofLaunch_inv {l : Launch} (h : l.WF) : (State.ofLaunch l).Inv := by
  obtain ⟨hcfg, hmem, hwithin⟩ := h
  exact ⟨hcfg, Vector.getElem_set_self _, hmem, hwithin⟩

/-- Settles O45: reset writes 0 to slot 0 and takes everything else from the launch. -/
theorem invariantAtReset : Obligations.InvariantAtReset :=
  ⟨fun _ => ofLaunch_inv, ofLaunch_inv (by decide)⟩

/-- The host's moves touch the input stream only. -/
theorem Reaches.inv (h : Reaches s t) (hs : s.Inv) : t.Inv := by
  induction h with
  | start => exact hs
  | step _ hstep ih => exact step_inv ih hstep
  | supply _ _ ih | endInput _ ih => exact ih.congr rfl rfl rfl

/-- Settles O55: the invariant holds at reset, and every step and every move of the host keeps it. -/
theorem invariantOfEveryRun : Obligations.InvariantOfEveryRun := fun _ _ hl h => h.inv (ofLaunch_inv hl)

end invariant

/-! ### The logs (R34, R249) -/

/-- The state with other contents of its output and diagnostic streams. -/
def State.withLogs (s : State) (o : List Byte) (d : List DiagRecord) : State := { s with output := o, diag := d }

section logs
variable (s : State) (o : List Byte) (d : List DiagRecord)

theorem sameButLogs_ite {p : Prop} [Decidable p] {a b a' b' : Result} (ha : SameButLogs a a') (hb : SameButLogs b b') :
    SameButLogs (if p then a else b) (if p then a' else b') := by
  split_ifs
  · exact ha
  · exact hb

theorem sameButLogs_loadOp (n : Nat) (ext : BitVec (8 * n) → Word) (rd rs1 : RegIdx) (imm : BitVec 12) :
    SameButLogs (loadOp n ext rd rs1 imm s) (loadOp n ext rd rs1 imm (s.withLogs o d)) := by
  rw [loadOp_eq, loadOp_eq]
  exact sameButLogs_ite rfl rfl

theorem sameButLogs_storeOp (n : Nat) (rs1 rs2 : RegIdx) (imm : BitVec 12) :
    SameButLogs (storeOp n rs1 rs2 imm s) (storeOp n rs1 rs2 imm (s.withLogs o d)) := by
  rw [storeOp_eq, storeOp_eq]
  exact sameButLogs_ite rfl rfl

theorem sameButLogs_branchOp (taken : Bool) (off : BitVec 13) :
    SameButLogs (branchOp taken off s) (branchOp taken off (s.withLogs o d)) := by
  simp only [branchOp_eq]
  rfl

theorem sameButLogs_getcharService : SameButLogs (getcharService s) (getcharService (s.withLogs o d)) := by
  unfold getcharService
  cases hi : s.input with
  | cons b rest =>
    rw [s.getChar_cons b rest hi, (s.withLogs o d).getChar_cons b rest hi]
    rfl
  | nil =>
    have hended : (s.withLogs o d).inputEnded = s.inputEnded := rfl
    rw [s.getChar_nil hi, (s.withLogs o d).getChar_nil hi, hended]
    cases s.inputEnded <;> rfl

theorem sameButLogs_execEcall : SameButLogs (execEcall s) (execEcall (s.withLogs o d)) := by
  unfold execEcall
  exact sameButLogs_ite rfl <| sameButLogs_ite rfl <| sameButLogs_ite (sameButLogs_getcharService s o d) <|
    sameButLogs_ite rfl rfl

/-- Whatever the logs hold, an instruction has the same outcome but for them: it may append to a log, and reads none. -/
theorem sameButLogs_exec (i : Instr) : SameButLogs (exec i s) (exec i (s.withLogs o d)) := by
  cases i
  case lb | lh | lw | lbu | lhu => exact sameButLogs_loadOp s o d ..
  case sb | sh | sw => exact sameButLogs_storeOp s o d ..
  case ecall => exact sameButLogs_execEcall s o d
  case beq | bne | blt | bge | bltu | bgeu => exact sameButLogs_branchOp s o d ..
  all_goals rfl

theorem sameButLogs_countCompleted {r r' : Result} (h : SameButLogs r r') :
    SameButLogs (countCompleted r) (countCompleted r') := by
  cases r <;> cases r'
  case next.next t u =>
    have hu : u = t.withLogs u.output u.diag := h
    rw [hu]
    rfl
  all_goals exact h

theorem sameButLogs_step : SameButLogs (step s) (step (s.withLogs o d)) := by
  cases hrun : s.run with
  | stopped c => rw [step_of_stopped hrun, step_of_stopped (s := s.withLogs o d) hrun]; rfl
  | running =>
    by_cases hceil : s.cfg.stepLimit = some s.executed
    · rw [step_of_ceiling hrun hceil, step_of_ceiling (s := s.withLogs o d) hrun hceil]; rfl
    have hready : Ready s ∧ Ready (s.withLogs o d) := ⟨⟨hrun, hceil⟩, hrun, hceil⟩
    cases hf : s.fetch with
    | error c => rw [step_of_fetchError hready.1 hf, step_of_fetchError hready.2 hf]; rfl
    | ok w =>
      have hw : Fetches s w ∧ Fetches (s.withLogs o d) w := ⟨⟨hready.1, hf⟩, hready.2, hf⟩
      cases hd : decodeWord w with
      | error e => rw [step_of_decodeError hw.1 hd, step_of_decodeError hw.2 hd]; rfl
      | ok i =>
        rw [step_of_decoded hw.1 hd, step_of_decoded hw.2 hd]
        exact sameButLogs_countCompleted (sameButLogs_exec s o d i)

end logs

/-- Settles O53: the cycle's checks read neither log, and no instruction does. -/
theorem logsCannotInfluenceTheRun : Obligations.LogsCannotInfluenceTheRun := sameButLogs_step

end Sys2Proof.Machine
end

section
/-! PROOFS. The instruction cycle (10_state.md R27, R37; 20_memory.md R59; 60_exceptions.md R252, R254): what the fetch checks,
that a cycle either completes or stops, what each leaves of the state, and the next pc. -/

namespace Sys2Proof.Machine

open Sys2Proof.Claims

/-! ### The fetch (R59, R251) -/

section fetch
variable {s : State}

/-- A pc whose low two bits are 0 is a multiple of 4. -/
theorem lowBits_eq_zero_iff (pc : Word) : pc.extractLsb' 0 2 = 0#2 ↔ pc.toNat % 4 = 0 := by
  simp [← BitVec.toNat_inj]

theorem State.fetch_outOfBounds (h : s.cfg.cap < s.pc.toNat + 4) : s.fetch = .error (.fetchBoundsFault s.pc) := by
  simp [State.fetch, State.inBounds, h]

theorem State.fetch_misaligned (hin : s.pc.toNat + 4 ≤ s.cfg.cap) (h : s.pc.toNat % 4 ≠ 0) :
    s.fetch = .error (.misalignedFetch s.pc) := by
  simp [State.fetch, State.inBounds, hin, lowBits_eq_zero_iff, h]

theorem State.fetch_aligned (hin : s.pc.toNat + 4 ≤ s.cfg.cap) (h : s.pc.toNat % 4 = 0) :
    s.fetch = .ok (Memory.readLE s.mem s.pc.toNat 4) := by
  simp [State.fetch, State.inBounds, hin, lowBits_eq_zero_iff, h]

/-- Settles O37: the three cases of the fetch, the first two of which stop the cycle. -/
theorem fetchChecksInOrder : Obligations.FetchChecksInOrder := by
  refine ⟨fun s hs hout => ?bounds, fun s hs hin hmis => ?alignment, fun s hin hal => ?word⟩
  case bounds => exact step_of_fetchError hs (State.fetch_outOfBounds hout)
  case alignment => exact step_of_fetchError hs (State.fetch_misaligned hin hmis)
  case word => rw [State.fetch_aligned hin hal, Memory.readLE_four]

end fetch

/-! ### The end of a cycle (R37) -/

section cycle
variable {s t : State}

theorem State.countCycle_of_running (h : t.run = .running) : t.countCycle = { t with executed := t.executed + 1 } := by
  rw [State.countCycle, if_pos h]

theorem State.countCycle_of_stopped {c : StopCause} (h : t.run = .stopped c) : t.countCycle = t := by
  rw [State.countCycle, if_neg (by simp [h])]

/-- Settles O35: the step is the meaning of the decoded instruction, and whether the cycle counts is read off the run status. -/
theorem stepRunsDecoded : Obligations.StepRunsDecoded := by
  intro s w i hw hd
  rw [step_of_decoded hw hd]
  refine ⟨fun t h hrun => ?_, fun t c h hstop => ?_, fun f h => ?_⟩ <;> rw [h]
  · exact congrArg Host.Outcome.next (State.countCycle_of_running hrun)
  · exact congrArg Host.Outcome.next (State.countCycle_of_stopped hstop)
  · rfl

/-- An instruction takes a stop, leaving all but the run status, or completes, leaving the run status. -/
theorem Effect.stops_or_run_eq (h : Effect s t) : (∃ c, t = s.stop c) ∨ t.run = s.run := by
  cases h with
  | stops c => exact .inl ⟨c, rfl⟩
  | writes | jumps | branches | falls | stores | reports | sends | receives => exact .inr rfl

/-- The two ways a step ends: it stops the run and changes nothing else, or its instruction completes and the cycle counts. -/
theorem step_stops_or_completes (h : step s = .next t) : (∃ c, t = s.stop c) ∨
    ∃ w i u, decodeWord w = .ok i ∧ exec i s = .next u ∧ u.run = .running ∧
      t = { u with executed := u.executed + 1 } := by
  obtain ⟨hrun, hstop | ⟨w, i, u, -, -, hd, hu, rfl⟩⟩ := step_cases h
  · exact .inl hstop
  · obtain ⟨c, rfl⟩ | hu' := (exec_effect hu).stops_or_run_eq
    · exact .inl ⟨c, State.countCycle_of_stopped rfl⟩
    · have hrunning : u.run = .running := hu'.trans hrun
      exact .inr ⟨w, i, u, hd, hu, hrunning, State.countCycle_of_running hrunning⟩

/-- Settles O40: of the two ways a step ends, only a stop leaves the core stopped. -/
theorem stopsArePrecise : Obligations.StopsArePrecise := by
  intro s t c h hstop
  obtain ⟨d, rfl⟩ | ⟨_, _, u, _, _, hrunning, rfl⟩ := step_stops_or_completes h
  · cases hstop
    rfl
  · cases hrunning.symm.trans hstop

/-- Settles O41, which is `exec_stopsRaisedBy` with its definition written out. -/
theorem stopsNameTheirInstruction : Obligations.StopsNameTheirInstruction :=
  fun i _ t c hrun h hstop => exec_stopsRaisedBy hrun i t c h hstop

theorem Effect.cfg_eq (h : Effect s t) : t.cfg = s.cfg := by cases h <;> rfl

theorem Effect.executed_eq (h : Effect s t) : t.executed = s.executed := by cases h <;> rfl

/-- Settles O50: no instruction touches the parameters or the count, which goes up by one where the instruction completes. -/
theorem stepCountsCompletedCycles : Obligations.StepCountsCompletedCycles := by
  intro s t h
  obtain ⟨c, rfl⟩ | ⟨_, _, u, _, hu, hrunning, rfl⟩ := step_stops_or_completes h
  · exact ⟨rfl, nofun, fun _ => rfl⟩
  · have he := exec_effect hu
    exact ⟨he.cfg_eq, fun _ => congrArg (· + 1) he.executed_eq, fun hne => absurd hrunning hne⟩

end cycle

/-! ### Every instruction answers (R224, R254) -/

theorem loadOp_answers (n : Nat) (ext : BitVec (8 * n) → Word) (rd rs1 : RegIdx) (imm : BitVec 12) (s : State) :
    ∃ t, loadOp n ext rd rs1 imm s = .next t := by
  rw [loadOp_eq]
  split_ifs <;> exact ⟨_, rfl⟩

theorem storeOp_answers (n : Nat) (rs1 rs2 : RegIdx) (imm : BitVec 12) (s : State) :
    ∃ t, storeOp n rs1 rs2 imm s = .next t := by
  rw [storeOp_eq]
  split_ifs <;> exact ⟨_, rfl⟩

/-- Of the outcomes of ECALL only the unanswered read makes no step. -/
theorem execEcall_answers_or_waits (s : State) :
    (∃ t, execEcall s = .next t) ∨ (Waits s ∧ execEcall s = .fault .waitingForInput) := by
  rcases execEcall_cases s with ⟨-, e⟩ | e | ⟨-, b, rest, -, e⟩ | ⟨-, -, -, e⟩ | ⟨hsel, hin, hended, e⟩ | ⟨d, e⟩
  case inr.inr.inr.inr.inl => exact .inr ⟨⟨hsel, hin, hended⟩, e⟩
  all_goals exact .inl ⟨_, e⟩

theorem exec_answers {i : Instr} (hi : i ≠ .ecall) (s : State) : ∃ t, exec i s = .next t := by
  cases i
  case ecall => exact absurd rfl hi
  case lb | lh | lw | lbu | lhu => exact loadOp_answers ..
  case sb | sh | sw => exact storeOp_answers ..
  case beq | bne | blt | bge | bltu | bgeu => exact ⟨_, branchOp_eq ..⟩
  all_goals exact ⟨_, rfl⟩

theorem exec_answers_or_waits (i : Instr) (s : State) :
    (∃ t, exec i s = .next t) ∨ (Waits s ∧ exec i s = .fault .waitingForInput) := by
  by_cases hi : i = .ecall
  · rw [hi]
    exact execEcall_answers_or_waits s
  · exact .inl (exec_answers hi s)

/-- Settles O39: the one outcome that is no next state has ECALL wait. -/
theorem everyInstructionAnswers : Obligations.EveryInstructionAnswers :=
  ⟨fun _ s hi => exec_answers hi s,
    fun s hw => (execEcall_answers_or_waits s).resolve_right fun ⟨hwaits, _⟩ => hw hwaits⟩

/-- A cycle stops at its ceiling, its fetch or its decode, or has the outcome of its instruction. -/
theorem step_answers_or_waits {s : State} (hrun : s.run = .running) :
    (∃ t, step s = .next t) ∨ (step s = .fault .waitingForInput ∧ Waits s) := by
  by_cases hceil : s.cfg.stepLimit = some s.executed
  · exact .inl ⟨_, step_of_ceiling hrun hceil⟩
  have hready : Ready s := ⟨hrun, hceil⟩
  cases hf : s.fetch with
  | error c => exact .inl ⟨_, step_of_fetchError hready hf⟩
  | ok w =>
    cases hd : decodeWord w with
    | error e => exact .inl ⟨_, step_of_decodeError ⟨hready, hf⟩ hd⟩
    | ok i =>
      rw [step_of_decoded ⟨hready, hf⟩ hd]
      obtain ⟨t, ht⟩ | ⟨hwaits, hfault⟩ := exec_answers_or_waits i s
      · exact .inl ⟨t.countCycle, by rw [ht]; rfl⟩
      · exact .inr ⟨by rw [hfault]; rfl, hwaits⟩

/-- Settles O38: a stopped core is rejected at once, a running one goes through the stages of its cycle. -/
theorem runEndsExactlyWhenStopped : Obligations.RunEndsExactlyWhenStopped :=
  ⟨fun _ _ => step_of_stopped, fun _ => step_answers_or_waits⟩

/-! ### The next pc (R27) -/

section nextPc
variable {s t : State}

theorem loadOp_pc {n : Nat} {ext : BitVec (8 * n) → Word} {rd rs1 : RegIdx} {imm : BitVec 12}
    (h : loadOp n ext rd rs1 imm s = .next t) (hrun : t.run = .running) : t.pc = s.pc + 4 := by
  rw [loadOp_eq] at h
  split_ifs at h <;> cases h
  · rfl
  · cases hrun

theorem storeOp_pc {n : Nat} {rs1 rs2 : RegIdx} {imm : BitVec 12}
    (h : storeOp n rs1 rs2 imm s = .next t) (hrun : t.run = .running) : t.pc = s.pc + 4 := by
  rw [storeOp_eq] at h
  split_ifs at h <;> cases h
  · rfl
  · cases hrun

/-- A branch goes where the condition says that its flag stands for. -/
theorem branchOp_pc {taken : Bool} {off : BitVec 13} {p : Prop} [Decidable p] (h : branchOp taken off s = .next t)
    (hp : taken = true ↔ p) : t.pc = if p then s.pc + off.signExtend 32 else s.pc + 4 := by
  rw [branchOp_eq] at h
  cases h
  exact if_congr hp rfl rfl

theorem execEcall_pc (h : execEcall s = .next t) (hrun : t.run = .running) : t.pc = s.pc + 4 := by
  rcases execEcall_cases s with ⟨-, e⟩ | e | ⟨-, b, rest, -, e⟩ | ⟨-, -, -, e⟩ | ⟨-, -, -, e⟩ | ⟨d, e⟩ <;>
    rw [e] at h <;> cases h
  case inl => cases hrun
  all_goals rfl

/-- Say once where an instruction that completes sends pc. -/
theorem exec_nextPc {i : Instr} (h : exec i s = .next t) (hrun : t.run = .running) : t.pc = nextPc s i := by
  cases i
  case lb | lh | lw | lbu | lhu => exact loadOp_pc h hrun
  case sb | sh | sw => exact storeOp_pc h hrun
  case ecall => exact execEcall_pc h hrun
  case beq => exact branchOp_pc h (aluCompare_eq_iff ..)
  case bne => exact branchOp_pc h (aluCompare_not_eq_iff ..)
  case blt => exact branchOp_pc h (aluCompare_lt_iff ..)
  case bge => exact branchOp_pc h (aluCompare_not_lt_iff ..)
  case bltu => exact branchOp_pc h (aluCompare_ltu_iff ..)
  case bgeu => exact branchOp_pc h (aluCompare_not_ltu_iff ..)
  case ebreak | reservedMulh | reservedMulhsu | reservedMulhu | reservedBranch2 | reservedBranch3 => cases h; cases hrun
  all_goals cases h; rfl

/-- Settles O51: an instruction that does not complete has taken a stop, which keeps pc. -/
theorem nextPcOfEveryInstruction : Obligations.NextPcOfEveryInstruction := by
  intro i s t hrun h
  refine ⟨exec_nextPc h, fun hne => ?_⟩
  obtain ⟨c, rfl⟩ | ht := (exec_effect h).stops_or_run_eq
  · rfl
  · exact absurd (ht.trans hrun) hne

/-! ### An even pc stays even (R29) -/

/-- No carry reaches bit 0. -/
theorem add_even {a b : Word} (ha : a.getLsbD 0 = false) (hb : b.getLsbD 0 = false) : (a + b).getLsbD 0 = false := by
  rw [BitVec.getLsbD_add (by decide), ha, hb, BitVec.carry_zero]
  rfl

theorem sext13_even {off : BitVec 13} (h : evenBranchOffset off = true) : (sext13 off).getLsbD 0 = false :=
  (getLsbD_sext13_low off (by decide)).trans (by simpa [evenBranchOffset] using h)

theorem sext21_even {off : BitVec 21} (h : evenJumpOffset off = true) : (sext21 off).getLsbD 0 = false :=
  (getLsbD_sext21_low off (by decide)).trans (by simpa [evenJumpOffset] using h)

/-- A branch of a well-formed instruction goes to an even pc on both sides. -/
theorem branch_even {off : BitVec 13} {p : Prop} [Decidable p] (hs : s.pc.getLsbD 0 = false)
    (hoff : evenBranchOffset off = true) : (if p then s.pc + off.signExtend 32 else s.pc + 4).getLsbD 0 = false := by
  split_ifs
  · exact add_even hs (sext13_even hoff)
  · exact add_even hs rfl

theorem nextPc_even {i : Instr} (hs : s.pc.getLsbD 0 = false) (hwf : i.wf = true) : (nextPc s i).getLsbD 0 = false := by
  cases i
  case beq | bne | blt | bge | bltu | bgeu => exact branch_even hs hwf
  case jal => exact add_even hs (sext21_even hwf)
  case jalr => exact BitVec.getLsbD_and.trans (Bool.and_false _)
  all_goals exact add_even hs rfl

/-- Settles O52: a stop keeps pc, and a decoded instruction has even offsets. -/
theorem pcStaysEven : Obligations.PcStaysEven := by
  intro s t hs h
  obtain ⟨c, rfl⟩ | ⟨w, i, u, hd, hu, hrunning, rfl⟩ := step_stops_or_completes h
  · exact hs
  · rw [exec_nextPc hu hrunning]
    exact nextPc_even hs (decodeWord_carries hd).wf

end nextPc

end Sys2Proof.Machine
end

section
/-! PROOFS. Runs (70_reset_and_hazards.md R279, R280) and where they begin and end (R270; 60_exceptions.md R250, R254): the logs
grow along a run, a stop is terminal, the codes of the stops, and the state at reset with its register file (10_state.md R22, R23). -/

namespace Sys2Proof.Machine

open Sys2Proof.Claims

/-! ### Along a run (R34, R39) -/

/-- What the past of a run leaves for good: the logs begin as they did, the parameters stay, no completed cycle is taken back. -/
structure Extends (s t : State) : Prop where
  output : s.output <+: t.output
  diag : s.diag <+: t.diag
  cfg : t.cfg = s.cfg
  executed : s.executed ≤ t.executed

theorem Extends.refl (s : State) : Extends s s :=
  ⟨⟨[], List.append_nil _⟩, ⟨[], List.append_nil _⟩, rfl, Nat.le_refl _⟩

theorem Extends.trans {s t u : State} (h : Extends s t) (h' : Extends t u) : Extends s u :=
  ⟨h.output.trans h'.output, h.diag.trans h'.diag, h'.cfg.trans h.cfg, h.executed.trans h'.executed⟩

theorem step_extends {s t : State} (h : step s = .next t) : Extends s t := by
  obtain ⟨⟨o, ho, -⟩, -, ⟨d, hd, -⟩, -⟩ := step_streamsStep h
  obtain ⟨hcfg, hcounts, hkeeps⟩ := stepCountsCompletedCycles s t h
  refine ⟨⟨o, ho.symm⟩, ⟨d, hd.symm⟩, hcfg, ?_⟩
  by_cases hrun : t.run = .running
  · exact hcounts hrun ▸ Nat.le_succ _
  · exact (hkeeps hrun).ge

theorem Reaches.extends {s t : State} (h : Reaches s t) : Extends s t := by
  induction h with
  | start => exact .refl s
  | step _ hstep ih => exact ih.trans (step_extends hstep)
  | supply _ _ ih | endInput _ ih => exact ⟨ih.output, ih.diag, ih.cfg, ih.executed⟩

/-- Settles O56: each step extends the state it starts from, and the host's moves touch none of these parts. -/
theorem streamsGrowAlongEveryRun : Obligations.StreamsGrowAlongEveryRun := by
  intro s t h
  obtain ⟨⟨o, ho⟩, ⟨d, hd⟩, hcfg, hcount⟩ := h.extends
  exact ⟨⟨o, ho.symm⟩, ⟨d, hd.symm⟩, hcfg, hcount⟩

/-! ### After a stop (R240, R254) -/

theorem State.safe_of_stopped {s : State} {c : StopCause} (h : s.run = .stopped c) : s.safe = !c.fatal := by
  simp [State.safe, h]

/-- From a stopped state only the host moves, and it touches the input stream alone. -/
theorem Reaches.eq_of_stopped {s t : State} {c : StopCause} (hstop : s.run = .stopped c) (h : Reaches s t) :
    t = { s with input := t.input, inputEnded := t.inputEnded } := by
  induction h with
  | start => rfl
  | @step t u _ hstep ih =>
    have ht : t.run = .stopped c := (congrArg State.run ih).trans hstop
    cases (step_of_stopped ht).symm.trans hstep
  | supply b _ ih => exact congrArg (·.hostSupply b) ih
  | endInput _ ih => exact congrArg State.hostEndInput ih

/-- Settles O57: every state of such a run has the status of the first, whose cause decides whether it is safe. -/
theorem stopIsTerminal : Obligations.StopIsTerminal := by
  refine ⟨fun s t c hstop h => h.eq_of_stopped hstop, fun s c => ⟨fun h => ?safe, fun hc t h => ?normal⟩⟩
  case safe =>
    have hsafe : (s.stop c).safe = true := h _ .start
    rwa [State.safe_of_stopped (s.stop_run c), Bool.not_eq_true'] at hsafe
  case normal =>
    have ht : t.run = .stopped c := congrArg State.run (h.eq_of_stopped (s.stop_run c))
    rw [State.safe_of_stopped ht, hc]
    rfl

/-! ### The codes of the stops (R250) -/

/-- Settles O43: each of the nine run statuses has its own code, and the four facts about it are read off the table. -/
theorem stopCodesAndClasses : Obligations.StopCodesAndClasses := by
  intro s
  cases hrun : s.run with
  | running => simp [State.stopCode, State.exitStatus, State.safe, hrun]
  | stopped c => cases c <;> simp [State.stopCode, State.exitStatus, State.safe, hrun, StopCause.code, StopCause.fatal]

/-! ### Reset and the register file (R22, R23, R270) -/

/-- Settles O30, from the laws of `State.writeReg`: what each register reads after it, x0 included. -/
theorem registerFileReadsBack : Obligations.RegisterFileReadsBack :=
  ⟨State.readReg_zero, State.writeReg_zero, State.writeReg_readReg_self, State.writeReg_readReg_other⟩

/-- A register other than x0 starts with the launch's value: reset sets slot 0 only. -/
theorem ofLaunch_readReg (l : Launch) {r : RegIdx} (hr : r ≠ 0) : (State.ofLaunch l).readReg r = l.regInit.get r := by
  have hne : 0 ≠ r.val := fun h => hr (Fin.ext h.symm)
  rw [State.readReg, if_neg hr]
  exact Vector.getElem_set_ne (Nat.succ_pos 31) r.isLt hne

/-- Settles O44: every field but the register file is the launch's or a constant by definition. -/
theorem resetTakesTheLaunch : Obligations.ResetTakesTheLaunch :=
  fun l => ⟨rfl, fun _ => rfl, rfl, fun _ => ofLaunch_readReg l, rfl, rfl, rfl, rfl, rfl, rfl, rfl⟩

end Sys2Proof.Machine
end

section
/-! PROOFS. What a store leaves for a later read (20_memory.md R54, R56, R65; 43_load_store.md): loads inside the stored bytes, the next
fetch, the bytes around the store; the unrecognised widths, which touch no byte (R180, R181); and that a memory in canonical form
is determined by its contents. -/

namespace Sys2Proof.Machine

open Sys2Proof.Claims

/-! ### A load after a store (R54) -/

/-- A store that has not stopped was in bounds, and has written its bytes and nothing else. -/
theorem storeOp_running {n : Nat} {s t : State} {rs1 rs2 : RegIdx} {imm : BitVec 12} (h : storeOp n rs1 rs2 imm s = .next t)
    (hrun : t.run = .running) : (s.effAddr rs1 imm).toNat + n ≤ s.cfg.cap ∧ t.cfg = s.cfg ∧ t.pc = s.pc + 4 ∧
      t.mem = Memory.writeLE s.mem (s.effAddr rs1 imm).toNat (truncated n (s.readReg rs2)) n := by
  rw [storeOp_eq] at h
  split_ifs at h with hin <;> cases h
  · exact ⟨hin, rfl, rfl, rfl⟩
  · cases hrun

/-- A read of `j` bytes within the `n` bytes a store has written, from `k` above their address, gives those of the register. -/
theorem readLE_after_store (m : Memory) (a : Nat) (v : Word) {n k j : Nat} (h : k + j ≤ n) :
    Memory.readLE (Memory.writeLE m a (truncated n v) n) (a + k) j = v.extractLsb' (8 * k) (8 * j) :=
  (Memory.readLE_writeLE m a _ n k j h).trans (bytes_of_truncated n k j v h)

/-- What makes a clause of `StoreThenLoadReturnsBytes`: a load of `j` bytes lies within the `n` bytes stored, so it is in bounds
as the store was, and it gives those bytes of the register, extended. -/
theorem storeThenLoad_of_ops {st ld : RegIdx → RegIdx → BitVec 12 → Instr} {k : Nat} {value : Word → Word} (n j : Nat)
    (ext : BitVec (8 * j) → Word) (hk : k + j ≤ n) (hst : ∀ rs1 rs2 imm s, exec (st rs1 rs2 imm) s = storeOp n rs1 rs2 imm s)
    (hld : ∀ rd rb imm s, exec (ld rd rb imm) s = loadOp j ext rd rb imm s)
    (hval : ∀ v, ext (v.extractLsb' (8 * k) (8 * j)) = value v) : StoreThenLoad st ld k value := by
  intro s t u rs1 rs2 rd rb imm imm' _ hs hrun hrd haddr hl
  rw [hst] at hs
  obtain ⟨hin, hcfg, -, hmem⟩ := storeOp_running hs hrun
  have hin' : (t.effAddr rb imm').toNat + j ≤ t.cfg.cap := by rw [hcfg, haddr]; omega
  rw [hld, loadOp_eq, if_pos hin'] at hl
  cases hl
  rw [State.advance_readReg, State.writeReg_readReg_self _ _ _ hrd, ← hval, haddr, hmem]
  exact congrArg ext (readLE_after_store s.mem _ (s.readReg rs2) hk)

/-- A word fills the register. -/
theorem zeroFill_wholeWord (v : Word) : zeroFill (n := 4) (v.extractLsb' 0 32) = v := by
  rw [zeroFill, extract_whole, BitVec.setWidth_eq]

/-- Settles O18 with one line per clause: the two widths, the extension, and that the load lies within the store. -/
theorem storeThenLoadReturnsBytes : Obligations.StoreThenLoadReturnsBytes := by
  exact ⟨storeThenLoad_of_ops 4 4 zeroFill (by omega) (fun _ _ _ _ => rfl) (fun _ _ _ _ => rfl) zeroFill_wholeWord,
    fun k hk => storeThenLoad_of_ops 4 2 signFill (by omega) (fun _ _ _ _ => rfl) (fun _ _ _ _ => rfl) fun _ => rfl,
    fun k hk => storeThenLoad_of_ops 4 2 zeroFill (by omega) (fun _ _ _ _ => rfl) (fun _ _ _ _ => rfl) fun _ => rfl,
    fun k hk => storeThenLoad_of_ops 4 1 signFill (by omega) (fun _ _ _ _ => rfl) (fun _ _ _ _ => rfl) fun _ => rfl,
    fun k hk => storeThenLoad_of_ops 4 1 zeroFill (by omega) (fun _ _ _ _ => rfl) (fun _ _ _ _ => rfl) fun _ => rfl,
    storeThenLoad_of_ops 2 2 signFill (by omega) (fun _ _ _ _ => rfl) (fun _ _ _ _ => rfl) fun _ => rfl,
    storeThenLoad_of_ops 2 2 zeroFill (by omega) (fun _ _ _ _ => rfl) (fun _ _ _ _ => rfl) fun _ => rfl,
    fun k hk => storeThenLoad_of_ops 2 1 signFill (by omega) (fun _ _ _ _ => rfl) (fun _ _ _ _ => rfl) fun _ => rfl,
    fun k hk => storeThenLoad_of_ops 2 1 zeroFill (by omega) (fun _ _ _ _ => rfl) (fun _ _ _ _ => rfl) fun _ => rfl,
    storeThenLoad_of_ops 1 1 signFill (by omega) (fun _ _ _ _ => rfl) (fun _ _ _ _ => rfl) fun _ => rfl,
    storeThenLoad_of_ops 1 1 zeroFill (by omega) (fun _ _ _ _ => rfl) (fun _ _ _ _ => rfl) fun _ => rfl⟩

/-- Settles O34: the store was in bounds at the next pc, and the fetch reads the four bytes it has written. -/
theorem storeIsSeenByNextFetch : Obligations.StoreIsSeenByNextFetch := by
  intro s t rs1 rs2 imm _ h hrun haddr hal
  obtain ⟨hin, hcfg, hpc, hmem⟩ := storeOp_running (n := 4) h hrun
  rw [haddr] at hin hmem
  rw [← hpc] at hin hmem hal
  rw [State.fetch_aligned (hcfg ▸ hin) ((lowBits_eq_zero_iff t.pc).mp hal), hmem]
  exact congrArg Except.ok ((readLE_after_store s.mem _ (s.readReg rs2) (k := 0) (Nat.le_refl 4)).trans (extract_whole _))

/-! ### The bytes a store leaves (R56) -/

theorem EffectOf.read_eq {i : Instr} {s t : State} (h : EffectOf s i t) {x : Nat}
    (hx : ∀ ea n, storedSpan s i = some (ea, n) → x < ea.toNat ∨ ea.toNat + n ≤ x) :
    Memory.read t.mem x = Memory.read s.mem x := by
  cases h with
  | stops | moves | writes | reports | sends | receives => rfl
  | stores ea n v hs => exact Memory.read_writeLE_outside s.mem _ v (hx ea n hs)

/-- Settles O48: only a shape that stores to the stored span changes a byte. -/
theorem onlyStoredBytesChange : Obligations.OnlyStoredBytesChange := by
  refine fun i s t h => ⟨fun hnone x => ?stored, fun ea n hs x hx => ?outside⟩
  case stored => exact (exec_effectOf h).read_eq fun ea n hs => by cases hnone.symm.trans hs
  case outside => exact (exec_effectOf h).read_eq fun ea' n' hs' => by cases hs.symm.trans hs'; exact hx

/-! ### The unrecognised widths (R180, R181) -/

/-- What makes a row of an unrecognised width: its funct3 in the second level of its opcode, and the report, which carries the word
it encodes to, as its meaning; since it consults every bit, that is the very word. -/
theorem widthRow_of_funct3 {pattern : Word} {mk : Word → Instr} {op : BitVec 7} {second : Word → Decoded} (f3 : BitVec 3)
    (hfirst : ∀ {w}, opcodeOf w = op → decodeWord w = second w) (hop : opcodeOf pattern = op) (h3 : funct3Of pattern = f3)
    (hsecond : ∀ w, funct3Of w = f3 → second w = .ok (mk w)) (hexec : ∀ w s, exec (mk w) s = unrecognizedWidth (mk w) s)
    (hall : ∀ w, consultedBits (mk w) = BitVec.allOnes 32) : WidthRow pattern mk := by
  have hd : RowDecodes pattern 0x0000707F mk := rowDecodes_of_funct3 hfirst hop h3 hsecond
  refine ⟨hd, fun s w h => ?_⟩
  rw [hexec, unrecognizedWidth_eq, encode_of_decodeWord (hd w h) (hall w)]
  exact ⟨_, rfl, fun _ => rfl, rfl, fun _ => rfl, rfl, rfl, rfl, rfl, rfl, rfl, rfl⟩

/-- Settles O19 with one line per row: its opcode and its funct3. The goals left are the decoder's: each funct3 leads the second
level to its own arm (R99). -/
theorem unrecognizedWidthsReport : Obligations.UnrecognizedWidthsReport := by
  refine ⟨widthRow_of_funct3 3 decodeWord_of_loadOpcode rfl rfl ?_ (fun _ _ => rfl) fun _ => rfl,
    widthRow_of_funct3 6 decodeWord_of_loadOpcode rfl rfl ?_ (fun _ _ => rfl) fun _ => rfl,
    widthRow_of_funct3 7 decodeWord_of_loadOpcode rfl rfl ?_ (fun _ _ => rfl) fun _ => rfl,
    widthRow_of_funct3 3 decodeWord_of_storeOpcode rfl rfl ?_ (fun _ _ => rfl) fun _ => rfl,
    widthRow_of_funct3 4 decodeWord_of_storeOpcode rfl rfl ?_ (fun _ _ => rfl) fun _ => rfl,
    widthRow_of_funct3 5 decodeWord_of_storeOpcode rfl rfl ?_ (fun _ _ => rfl) fun _ => rfl,
    widthRow_of_funct3 6 decodeWord_of_storeOpcode rfl rfl ?_ (fun _ _ => rfl) fun _ => rfl,
    widthRow_of_funct3 7 decodeWord_of_storeOpcode rfl rfl ?_ (fun _ _ => rfl) fun _ => rfl⟩
  all_goals exact fun w h3 => by simp [decodeLoad, decodeStore, h3]

/-! ### The canonical form (R50) -/

/-- An address below every listed one reads as an unlisted one does. -/
theorem Memory.read_of_below {m : Memory} {a : Nat} (h : ∀ c ∈ m, a < c.1) : Memory.read m a = Memory.unlisted := by
  induction m with
  | nil => rfl
  | cons c m ih =>
    have hc : c.1 ≠ a := (h c List.mem_cons_self).ne'
    rw [Memory.read, if_neg hc]
    exact ih fun d hd => h d (List.mem_cons_of_mem c hd)

section canonical
variable {c d : Host.Cell} {m n : Memory}

/-- A listed first cell is read, and is not what an unlisted address reads as. -/
theorem Memory.read_head_ne (h : Memory.wf (c :: m)) : Memory.read (c :: m) c.1 ≠ Memory.unlisted := by
  rw [Memory.read, if_pos rfl]
  exact h.2 c List.mem_cons_self

/-- The first address of a memory in canonical form is not below the first of one that reads the same: below the
first address everything reads as unlisted. -/
theorem Memory.not_head_lt (hm : Memory.wf (c :: m)) (hn : Memory.wf (d :: n))
    (h : ∀ a, Memory.read (c :: m) a = Memory.read (d :: n) a) : ¬ c.1 < d.1 := by
  intro hlt
  have hbelow : ∀ e ∈ d :: n, c.1 < e.1 := by
    intro e he
    rcases List.mem_cons.mp he with rfl | he
    · exact hlt
    · exact hlt.trans (List.rel_of_pairwise_cons hn.1 he)
  exact Memory.read_head_ne hm ((h c.1).trans (Memory.read_of_below hbelow))

/-- With equal first cells, memories in canonical form that read the same have tails that do: neither tail lists the address of the
first cell. -/
theorem Memory.read_tail_eq (hm : Memory.wf (c :: m)) (hn : Memory.wf (c :: n))
    (h : ∀ a, Memory.read (c :: m) a = Memory.read (c :: n) a) (a : Nat) : Memory.read m a = Memory.read n a := by
  by_cases ha : c.1 = a
  · subst ha
    rw [Memory.read_of_below fun e he => List.rel_of_pairwise_cons hm.1 he,
      Memory.read_of_below fun e he => List.rel_of_pairwise_cons hn.1 he]
  · have hread := h a
    rwa [Memory.read, if_neg ha, Memory.read, if_neg ha] at hread

theorem Memory.wf_tail (h : Memory.wf (c :: m)) : Memory.wf m :=
  ⟨h.1.of_cons, fun e he => h.2 e (List.mem_cons_of_mem c he)⟩

end canonical

/-- Settles O33, by induction on both lists: the first cells agree, neither address being below the other, and so do the tails. -/
theorem canonicalMemoriesAreEqual : Obligations.CanonicalMemoriesAreEqual := by
  intro m
  induction m with
  | nil =>
    intro n _ hn h
    cases n with
    | nil => rfl
    | cons d n => exact absurd (h d.1).symm (Memory.read_head_ne hn)
  | cons c m ih =>
    intro n hm hn h
    cases n with
    | nil => exact absurd (h c.1) (Memory.read_head_ne hm)
    | cons d n =>
      have haddr : c.1 = d.1 := le_antisymm (not_lt.mp (Memory.not_head_lt hn hm fun a => (h a).symm))
        (not_lt.mp (Memory.not_head_lt hm hn h))
      have hbyte : c.2 = d.2 := by simpa [Memory.read, haddr] using h c.1
      obtain rfl : c = d := Prod.ext haddr hbyte
      rw [ih n (Memory.wf_tail hm) (Memory.wf_tail hn) (Memory.read_tail_eq hm hn h)]

end Sys2Proof.Machine
end

section
/-! PROOFS. DIV and REM (41_op_muldiv.md R140, R142, R144): each is the rule's arithmetic on the integers the operands denote, with its two
exceptions, and quotient and remainder belong together. -/

namespace Sys2Proof.Machine

open Sys2Proof.Claims

/-! ### The signed operations as arithmetic -/

theorem word_eq_zero_iff_toInt (b : Word) : b = 0#32 ↔ b.toInt = 0 :=
  BitVec.toInt_inj (y := 0#32).symm

/-- The overflow pair is -2^31 by -1 (R142). -/
theorem isOverflowPair_iff (a b : Word) : isOverflowPair a b = true ↔ a.toInt = -2 ^ 31 ∧ b.toInt = -1 := by
  rw [isOverflowPair, Bool.and_eq_true, beq_iff_eq, beq_iff_eq, ← BitVec.toInt_inj, ← BitVec.toInt_inj]
  rfl

theorem aluDiv_eq (onOverflow a b : Word) : aluDiv onOverflow a b =
    if b.toInt = 0 then 0 else if a.toInt = -2 ^ 31 ∧ b.toInt = -1 then onOverflow
    else BitVec.ofInt 32 (a.toInt.tdiv b.toInt) := by
  simp only [aluDiv, word_eq_zero_iff_toInt, isOverflowPair_iff]

/-- The remainder the ALU computes is the one of the rounded quotient. -/
theorem aluRem_eq (onOverflow a b : Word) : aluRem onOverflow a b =
    if b.toInt = 0 then 0 else if a.toInt = -2 ^ 31 ∧ b.toInt = -1 then onOverflow
    else BitVec.ofInt 32 (a.toInt.tmod b.toInt) := by
  simp only [aluRem, word_eq_zero_iff_toInt, isOverflowPair_iff, Int.tmod_def]

theorem exec_div (rd rs1 rs2 : RegIdx) (s : State) :
    exec (.div rd rs1 rs2) s = finish rd (aluDiv s.cfg.divOverflow (s.readReg rs1) (s.readReg rs2)) s := rfl

theorem exec_rem (rd rs1 rs2 : RegIdx) (s : State) :
    exec (.rem rd rs1 rs2) s = finish rd (aluRem s.cfg.remOverflow (s.readReg rs1) (s.readReg rs2)) s := rfl

/-- What a writeback leaves in its destination. -/
theorem finish_readReg {rd : RegIdx} {v : Word} {s t : State} (hrd : rd ≠ 0) (h : finish rd v s = .next t) :
    t.readReg rd = v := by
  cases h
  exact s.writeReg_readReg_self rd v hrd

/-- Settles O13: each operation's value is the rule's arithmetic, written back with the fall-through; on the overflow pair it is the
configured one, which the decided configuration fixes. -/
theorem signedDivideResults : Obligations.SignedDivideResults := by
  refine ⟨fun w h => decodeWord_of_registerMatch (f7 := 0x01) (f3 := 4) h rfl rfl rfl ?_,
    fun w h => decodeWord_of_registerMatch (f7 := 0x01) (f3 := 6) h rfl rfl rfl ?_,
    fun s rd rs1 rs2 => ?div, fun s rd rs1 rs2 => ?rem, fun s rd rs1 rs2 t hcfg hrd ha hb h => ?divOverflow,
    fun s rd rs1 rs2 t hcfg hrd ha hb h => ?remOverflow⟩
  case div =>
    rw [exec_div, aluDiv_eq]
    exact finish_writesReg rd _ s
  case rem =>
    rw [exec_rem, aluRem_eq]
    exact finish_writesReg rd _ s
  case divOverflow =>
    rw [exec_div, ha, hb] at h
    exact (finish_readReg hrd h).trans hcfg.1
  case remOverflow =>
    rw [exec_rem, ha, hb] at h
    exact (finish_readReg hrd h).trans hcfg.2
  all_goals exact fun h7 h3 => by simp [decodeRegister, h7, h3]

/-! ### Quotient and remainder (R140) -/

/-- With a non-zero divisor and outside the overflow pair neither operation takes its exception, and the law is the integers'. -/
theorem aluDiv_mul_add_aluRem {a b : Word} (q r : Word) (hb : b ≠ 0) (hpair : ¬ (a = 0x80000000 ∧ b = 0xFFFFFFFF)) :
    aluDiv q a b * b + aluRem r a b = a := by
  have hb0 : b ≠ 0#32 := hb
  have hp : ¬ isOverflowPair a b = true := by simpa [isOverflowPair] using hpair
  simp only [aluDiv, aluRem, if_neg hb0, if_neg hp, ← Int.tmod_def]
  calc BitVec.ofInt 32 (a.toInt.tdiv b.toInt) * b + BitVec.ofInt 32 (a.toInt.tmod b.toInt)
      = BitVec.ofInt 32 (a.toInt.tdiv b.toInt * b.toInt + a.toInt.tmod b.toInt) := by
        rw [BitVec.ofInt_add, BitVec.ofInt_mul, BitVec.ofInt_toInt]
    _ = a := by rw [Int.tdiv_mul_add_tmod, BitVec.ofInt_toInt]

theorem aluDivU_mul_add_aluRemU {a b : Word} (hb : b ≠ 0) : aluDivU a b * b + aluRemU a b = a := by
  have hb0 : b ≠ 0#32 := hb
  simp only [aluDivU, aluRemU, if_neg hb0]
  calc BitVec.ofNat 32 (a.toNat / b.toNat) * b + BitVec.ofNat 32 (a.toNat % b.toNat)
      = BitVec.ofNat 32 (a.toNat / b.toNat * b.toNat + a.toNat % b.toNat) := by
        rw [BitVec.ofNat_add, BitVec.ofNat_mul, BitVec.ofNat_toNat 32 b, BitVec.setWidth_eq]
    _ = a := by rw [Nat.div_add_mod', BitVec.ofNat_toNat, BitVec.setWidth_eq]

/-- Settles O14: the two instructions leave their ALU operations' values in rd, and those satisfy the law. -/
theorem quotientRemainderIdentity : Obligations.QuotientRemainderIdentity := by
  refine ⟨fun s rd rs1 rs2 t u hrd hb hpair ht hu => ?signed, fun s rd rs1 rs2 t u hrd hb ht hu => ?unsigned⟩
  case signed =>
    rw [finish_readReg hrd ht, finish_readReg hrd hu]
    exact aluDiv_mul_add_aluRem _ _ hb hpair
  case unsigned =>
    rw [finish_readReg hrd ht, finish_readReg hrd hu]
    exact aluDivU_mul_add_aluRemU hb

end Sys2Proof.Machine
end

section
/-! PROOFS. ECALL with the write, read and debug selectors (47_system.md R223 to R225), and the host's answer to a waiting read (R224,
R280, R281). -/

namespace Sys2Proof.Machine

open Sys2Proof.Claims

/-! ### The selector (R5, R221) -/

/-- The selectors are pairwise distinct. -/
theorem selectors_ne {c : Config} (h : c.WF) :
    (c.sysExit ≠ c.sysPutchar ∧ c.sysExit ≠ c.sysGetchar ∧ c.sysExit ≠ c.sysDebug) ∧
    (c.sysPutchar ≠ c.sysGetchar ∧ c.sysPutchar ≠ c.sysDebug) ∧ c.sysGetchar ≠ c.sysDebug := by
  obtain ⟨-, hsel⟩ := h
  simpa using hsel

section services
variable {s : State} (hwf : s.cfg.WF)
include hwf

theorem exec_ecall_of_putchar (h : s.readReg 17 = s.cfg.sysPutchar) :
    exec .ecall s = .next (s.putChar ((s.readReg 10).setWidth 8)).advance := by
  obtain ⟨⟨hexit, -, -⟩, -, -⟩ := selectors_ne hwf
  exact (if_neg (h.trans_ne hexit.symm)).trans (if_pos h)

theorem exec_ecall_of_getchar (h : s.readReg 17 = s.cfg.sysGetchar) : exec .ecall s = getcharService s := by
  obtain ⟨⟨-, hexit, -⟩, ⟨hput, -⟩, -⟩ := selectors_ne hwf
  exact (if_neg (h.trans_ne hexit.symm)).trans <| (if_neg (h.trans_ne hput.symm)).trans (if_pos h)

theorem exec_ecall_of_debug (h : s.readReg 17 = s.cfg.sysDebug) :
    exec .ecall s = .next (s.report (.debugPrint (s.readReg 10))).advance := by
  obtain ⟨⟨-, -, hexit⟩, ⟨-, hput⟩, hget⟩ := selectors_ne hwf
  exact (if_neg (h.trans_ne hexit.symm)).trans <| (if_neg (h.trans_ne hput.symm)).trans <|
    (if_neg (h.trans_ne hget.symm)).trans (if_pos h)

/-! ### The three answers to a read (R224) -/

theorem exec_ecall_of_char (h : s.readReg 17 = s.cfg.sysGetchar) {b : Byte} {rest : List Byte} (hin : s.input = b :: rest) :
    exec .ecall s = .next ((s.setInput rest).writeReg 10 (b.setWidth 32)).advance := by
  rw [exec_ecall_of_getchar hwf h, getcharService, s.getChar_cons b rest hin]
  rfl

theorem exec_ecall_of_exhausted (h : s.readReg 17 = s.cfg.sysGetchar) (hin : s.input = []) (hended : s.inputEnded = true) :
    exec .ecall s = .next (s.writeReg 10 s.cfg.getcharEof).advance := by
  rw [exec_ecall_of_getchar hwf h, getcharService, s.getChar_nil hin, hended]
  rfl

theorem exec_ecall_of_waits (h : Waits s) : exec .ecall s = .fault .waitingForInput := by
  obtain ⟨hsel, hin, hended⟩ := h
  rw [exec_ecall_of_getchar hwf hsel, getcharService, s.getChar_nil hin, hended]
  rfl

end services

/-! ### The statements -/

/-- Settles O24: truncation to 8 bits is the slice of bits 7 to 0. -/
theorem putcharServiceWrites : Obligations.PutcharServiceWrites := by
  intro s hwf h
  rw [exec_ecall_of_putchar hwf h, BitVec.setWidth_eq_extractLsb' (by decide)]
  exact ⟨_, rfl, fun _ => rfl, fun _ => rfl, rfl, rfl, rfl, rfl, rfl, rfl, rfl, rfl⟩

/-- Settles O25 with one case per answer of the host. -/
theorem getcharServiceReads : Obligations.GetcharServiceReads := by
  refine ⟨fun s b rest hwf h hin => ?char, fun s hwf h hin hended => ?exhausted, fun s hwf h => exec_ecall_of_waits hwf h⟩
  case char =>
    exact ⟨_, exec_ecall_of_char hwf h hin, (s.setInput rest).writeReg_readReg_self 10 _ (by decide),
      fun r hr => (s.setInput rest).writeReg_readReg_other 10 r _ hr, rfl, fun _ => rfl, rfl, rfl, rfl, rfl, rfl, rfl, rfl⟩
  case exhausted =>
    rw [exec_ecall_of_exhausted hwf h hin hended]
    exact finish_writesReg 10 s.cfg.getcharEof s

/-- Settles O26: the report is all there is before the fall-through. -/
theorem debugServiceRecords : Obligations.DebugServiceRecords :=
  fun _ hwf h => ⟨_, exec_ecall_of_debug hwf h, fun _ => rfl, fun _ => rfl, rfl, rfl, rfl, rfl, rfl, rfl, rfl, rfl⟩

/-- A cycle that fetches ECALL has the outcome of the service, counted. -/
theorem step_of_ecall {s t : State} {w : Word} (hw : Fetches s w) (hd : decodeWord w = .ok .ecall)
    (h : exec .ecall s = .next t) : step s = .next t.countCycle := by
  rw [step_of_decoded hw hd, h]
  rfl

/-- Settles O54: the host's move leaves the cycle at its head with the same word fetched, and the read now has its answer. -/
theorem hostAnswerEndsTheWait : Obligations.HostAnswerEndsTheWait := by
  intro s w hwf hw hd hwaits
  have ⟨⟨hrun, _⟩, _⟩ := hw
  obtain ⟨hsel, hin, hended⟩ := hwaits
  refine ⟨?waits, fun b => ?char, ?exhausted⟩
  case waits =>
    rw [step_of_decoded hw hd, exec_ecall_of_waits hwf ⟨hsel, hin, hended⟩]
    rfl
  case char =>
    have hin' : (s.hostSupply b).input = [b] := by simp [hin, hended]
    have hexec := exec_ecall_of_char (s := s.hostSupply b) hwf hsel hin'
    exact ⟨_, step_of_ecall (s := s.hostSupply b) hw hd hexec,
      ((s.hostSupply b).setInput []).writeReg_readReg_self 10 _ (by decide), rfl, rfl, hrun⟩
  case exhausted =>
    have hexec := exec_ecall_of_exhausted (s := s.hostEndInput) hwf hsel hin rfl
    exact ⟨_, step_of_ecall (s := s.hostEndInput) hw hd hexec,
      s.hostEndInput.writeReg_readReg_self 10 _ (by decide), hin, rfl, hrun⟩

end Sys2Proof.Machine
end
